-- ==== Sys2Proof/Word.lean ====
section
/-! DEFINITION. The word types of the block and their plainest arithmetic (00_scope.md R10, R11). -/

namespace Sys2Proof

/-- A byte: `u8` of 00_scope.md R10. -/
abbrev Byte := BitVec 8

/-- A 16-bit value: `u16`, the width of the checksum and of the narrow registers. -/
abbrev Half := BitVec 16

/-- A 32-bit value: the width of the register port and of the command word (00_scope.md R7). -/
abbrev Word := BitVec 32

/-- An IEEE 754 binary64 value, held as its 64-bit pattern (00_scope.md R14). -/
abbrev F64 := BitVec 64

/-- A byte offset in the 4096-byte register window (20_memory.md R60, R67). -/
abbrev Offset := BitVec 12

end Sys2Proof
end

