-- ==== Sys2Proof/Syntax.lean ====
section
/-! DEFINITION. The commands of the block (one constructor per row of the opcode table), the fields of
a command word, the names of the register map, the transactions and events that reach the block, and
the host syntax of 30_encoding.md R98 and R99. -/

namespace Sys2Proof

/-- The commands: one constructor per row of the opcode map (30_encoding.md R85). -/
inductive Instr where
  /-- `NOP`, 40_crc.md R113. -/
  | nop
  /-- `CRC_ACC b`, 40_crc.md R115; `b` is bits [15:8] of the command word (30_encoding.md R81). -/
  | crcAcc (b : Byte)
  /-- `CRC_EXTEND`, 40_crc.md R116. -/
  | crcExtend
  /-- `CRC_CLEAR`, 40_crc.md R114. -/
  | crcClear
  /-- `ENCODE`, 41_encoder.md R138. -/
  | encode
  /-- `ENCODE_RAW`, 41_encoder.md R139. -/
  | encodeRaw
  /-- `DECODE`, 42_decoder.md R160. -/
  | decode
deriving DecidableEq, Repr

/-- The five fields of a command word (30_encoding.md R80). -/
structure CmdFields where
  /-- Bits [3:0], the operation code. -/
  op : BitVec 4
  /-- Bit [4], selects `ENCODE_RAW`. -/
  raw : Bool
  /-- Bits [7:5], reserved. -/
  res0 : BitVec 3
  /-- Bits [15:8], the byte operand of `CRC_ACC`. -/
  arg : Byte
  /-- Bits [31:16], reserved. -/
  res1 : Half
deriving DecidableEq, Repr

/-- The 32 registers of 10_state.md R21, in the order of its table. -/
inductive RegName where
  | id0 | id1 | ctrl | status | cmd | crc | seq | sysId | time
  | latF64Lo | latF64Hi | lonF64Lo | lonF64Hi | latE7 | lonE7
  | alt | relAlt | vx | vy | vz | hdg | encCrc | rxLen
  | decSysId | decLatE7 | decLonE7
  | decLatF64Lo | decLatF64Hi | decLonF64Lo | decLonF64Hi
  | decCrcCalc | decCrcRx
deriving DecidableEq, Repr

/-- What a host program names in a transaction: a register, a bus word of one of the two buffers, or a
plain offset (30_encoding.md R98). -/
inductive HostReg where
  /-- A register of the map, by name. -/
  | named (r : RegName)
  /-- `TXBUF[k]`, bus word `k`. -/
  | txWord (k : Nat)
  /-- `RXBUF[k]`, bus word `k`. -/
  | rxWord (k : Nat)
  /-- A hexadecimal offset. -/
  | offset (a : Offset)
deriving DecidableEq, Repr

/-- The access widths a bus master can ask for; only `b32` is legal (20_memory.md R61). -/
inductive AccessSize where
  | b8 | b16 | b32 | b64
deriving DecidableEq, Repr

/-- What the world outside the engine does: one bus transaction (20_memory.md R60), one turn of a host
that polls `STATUS` until `BUSY` reads 0 (`WAIT`, 30_encoding.md R99), or a reset
(70_reset_and_hazards.md R210). -/
inductive Event where
  /-- `MemRead(a, n)`. -/
  | read (size : AccessSize) (a : Offset)
  /-- `MemWrite(a, n, v)`. -/
  | write (size : AccessSize) (a : Offset) (v : Word)
  /-- `WAIT`: read `STATUS`, and go on with the program at the first read with `BUSY = 0`. -/
  | waitIdle
  /-- The reset event. -/
  | reset
deriving DecidableEq, Repr

/-- Which coordinate `LDF64` loads (30_encoding.md R99). -/
inductive Coord where
  | lat | lon
deriving DecidableEq, Repr

/-- One line of a host program: `WR`, `RD` (30_encoding.md R98) and the pseudo-instructions of
30_encoding.md R99. -/
inductive HostLine where
  /-- `WR <reg>, <value>`. -/
  | wr (r : HostReg) (v : Word)
  /-- `RD <reg>`. -/
  | rd (r : HostReg)
  /-- A command mnemonic, `WR CMD` with its word. -/
  | cmd (i : Instr)
  /-- `WAIT`. -/
  | wait
  /-- `LDF64 LAT, x` or `LDF64 LON, x`, with `bits(x)`. -/
  | ldf64 (c : Coord) (x : F64)
  /-- `LDRX b0 .. bm`. -/
  | ldrx (bs : List Byte)
  /-- `CMDW c`: the command followed by `WAIT`. -/
  | cmdw (i : Instr)
deriving DecidableEq, Repr

end Sys2Proof
end

