-- ==== Sys2Proof/WellFormed.lean ====
section
/-! DEFINITION. The well-formedness checks: command fields (30_encoding.md R80 to R85, R88), commands,
and lines of a host program (30_encoding.md R98, R99). -/

namespace Sys2Proof

/-- `OP` is one the opcode map gives: 0x6 to 0xF select no command (30_encoding.md R85, R88). -/
def CmdFields.opDefined (f : CmdFields) : Bool := f.op ≤ 5

/-- `RAW` must be 0 unless `OP = 0x4` (30_encoding.md R82). -/
def CmdFields.rawAllowed (f : CmdFields) : Bool := !f.raw || f.op == 4

/-- `ARG` must be 0 unless `OP = 0x1` (30_encoding.md R83). -/
def CmdFields.argAllowed (f : CmdFields) : Bool := f.arg == 0 || f.op == 1

/-- `RES0` and `RES1` must be 0 (30_encoding.md R84). -/
def CmdFields.reservedZero (f : CmdFields) : Bool := f.res0 == 0 && f.res1 == 0

/-- The fields of a legal command word: none of the four reasons of 30_encoding.md R88 applies. -/
def CmdFields.wellFormed (f : CmdFields) : Bool :=
  f.opDefined && f.rawAllowed && f.argAllowed && f.reservedZero

/-- A command is well formed. The one operand is a byte, and every byte is legal (40_crc.md R115), so the
types leave nothing to refuse. -/
def Instr.wellFormed : Instr → Bool
  | .nop => true
  | .crcAcc _ => true
  | .crcExtend => true
  | .crcClear => true
  | .encode => true
  | .encodeRaw => true
  | .decode => true

/-- A buffer word a host program names exists: `TXBUF` has words 0 to 9 and `RXBUF` words 0 to 66
(10_state.md R50, R51). -/
def HostReg.wellFormed : HostReg → Bool
  | .named _ => true
  | .txWord k => k < 10
  | .rxWord k => k < 67
  | .offset _ => true

/-- A line of a host program is one of 30_encoding.md R98 and R99: the buffer words it names exist, and
`LDRX` has at least one byte and at most the 268 of `RXBUF`. -/
def HostLine.wellFormed : HostLine → Bool
  | .wr r _ => r.wellFormed
  | .rd r => r.wellFormed
  | .cmd i => i.wellFormed
  | .wait => true
  | .ldf64 _ _ => true
  | .ldrx bs => 1 ≤ bs.length && bs.length ≤ 268
  | .cmdw i => i.wellFormed

end Sys2Proof
end

