-- ==== Sys2Proof/Decode.lean ====
section
/-! DEFINITION. The command word: its fields, the decoder of 30_encoding.md R86, the encoder of
30_encoding.md R85 and R99, and the opcode table as data. -/

namespace Sys2Proof

/-- The fields of a command word (30_encoding.md R80). -/
def cmdFields (w : Word) : CmdFields where
  op := w.extractLsb' 0 4
  raw := w.getLsbD 4
  res0 := w.extractLsb' 5 3
  arg := w.extractLsb' 8 8
  res1 := w.extractLsb' 16 16

/-- Why a word is no command: the four cases of 30_encoding.md R88. Every illegal word behaves the same;
the name only says which case it is (the first that applies). -/
inductive IllegalWord where
  /-- A set bit in `RES0` or `RES1`. -/
  | reservedBits
  /-- `OP` is 0x6 to 0xF. -/
  | undefinedOp
  /-- `RAW = 1` with `OP` other than 0x4. -/
  | strayRaw
  /-- A non-zero `ARG` with `OP` other than 0x1. -/
  | strayArg
deriving DecidableEq, Repr

/-- Names the case of 30_encoding.md R88 an illegal word falls under. -/
def illegalReason (w : Word) : IllegalWord :=
  if !(cmdFields w).reservedZero then .reservedBits
  else if !(cmdFields w).opDefined then .undefinedOp
  else if !(cmdFields w).rawAllowed then .strayRaw
  else .strayArg

/-- `decode_cmd` of 30_encoding.md R86, total on all words. -/
def decodeCmd (w : Word) : Except IllegalWord Instr :=
  if w = 0x00000000 then .ok .nop
  else if w &&& 0xFFFF00FF = 0x00000001 then .ok (.crcAcc (w.extractLsb' 8 8))
  else if w = 0x00000002 then .ok .crcExtend
  else if w = 0x00000003 then .ok .crcClear
  else if w = 0x00000004 then .ok .encode
  else if w = 0x00000014 then .ok .encodeRaw
  else if w = 0x00000005 then .ok .decode
  else .error (illegalReason w)

/-- Lays five fields out as a command word (30_encoding.md R80). -/
def wordOfFields (f : CmdFields) : Word :=
  f.res1 ++ f.arg ++ f.res0 ++ BitVec.ofBool f.raw ++ f.op

/-- The fields of a command's word (30_encoding.md R85). -/
def instrFields : Instr → CmdFields
  | .nop => { op := 0x0, raw := false, res0 := 0, arg := 0, res1 := 0 }
  | .crcAcc b => { op := 0x1, raw := false, res0 := 0, arg := b, res1 := 0 }
  | .crcExtend => { op := 0x2, raw := false, res0 := 0, arg := 0, res1 := 0 }
  | .crcClear => { op := 0x3, raw := false, res0 := 0, arg := 0, res1 := 0 }
  | .encode => { op := 0x4, raw := false, res0 := 0, arg := 0, res1 := 0 }
  | .encodeRaw => { op := 0x4, raw := true, res0 := 0, arg := 0, res1 := 0 }
  | .decode => { op := 0x5, raw := false, res0 := 0, arg := 0, res1 := 0 }

/-- The word of a command, as the host writes it to `CMD` (30_encoding.md R80, R85, R99). -/
def encodeCmd (i : Instr) : Word := wordOfFields (instrFields i)

/-- One row of the opcode map: a word `w` selects it when `w &&& mask = pattern` (30_encoding.md R85). -/
structure OpcodeRow where
  /-- The mnemonic. -/
  mnemonic : String
  /-- The column `match`. -/
  pattern : Word
  /-- The column `mask`. -/
  mask : Word
deriving DecidableEq, Repr

/-- The opcode map of 30_encoding.md R85. -/
def opcodeRows : List OpcodeRow :=
  [ ⟨"NOP",        0x00000000, 0xFFFFFFFF⟩,
    ⟨"CRC_ACC",    0x00000001, 0xFFFF00FF⟩,
    ⟨"CRC_EXTEND", 0x00000002, 0xFFFFFFFF⟩,
    ⟨"CRC_CLEAR",  0x00000003, 0xFFFFFFFF⟩,
    ⟨"ENCODE",     0x00000004, 0xFFFFFFFF⟩,
    ⟨"ENCODE_RAW", 0x00000014, 0xFFFFFFFF⟩,
    ⟨"DECODE",     0x00000005, 0xFFFFFFFF⟩ ]

/-- A word selects a row of the opcode map (30_encoding.md R85). -/
def OpcodeRow.selects (r : OpcodeRow) (w : Word) : Bool := w &&& r.mask == r.pattern

/-- The mnemonic of a command (30_encoding.md R85). -/
def Instr.mnemonic : Instr → String
  | .nop => "NOP"
  | .crcAcc _ => "CRC_ACC"
  | .crcExtend => "CRC_EXTEND"
  | .crcClear => "CRC_CLEAR"
  | .encode => "ENCODE"
  | .encodeRaw => "ENCODE_RAW"
  | .decode => "DECODE"

/-- The command the decoder reads from the low `nbits` bits of `w`. A command is one 32-bit word written to
`CMD` (30_encoding.md R80), so there are no bytes to lay out. -/
def decodeTableWord (nbits w : Nat) : Option Instr :=
  (decodeCmd (BitVec.ofNat 32 (w % 2 ^ nbits))).toOption

end Sys2Proof
end

