-- ==== Sys2Proof/Config.lean ====
section
/-! DEFINITION. What a build of the block fixes: the constants of 00_scope.md R6, and the OPEN parameters of
00_scope.md R7 and 20_memory.md R67 as opaque constants. -/

namespace Sys2Proof.Config

/-- `MAGIC` (00_scope.md R6). -/
def magic : Byte := 0xFD

/-- `HDR_LEN`, the magic byte plus the nine header bytes after it (00_scope.md R6). -/
def hdrLen : Nat := 10

/-- `PAYLOAD_LEN` (00_scope.md R6). -/
def payloadLen : Byte := 28

/-- `CRC_LEN` (00_scope.md R6). -/
def crcLen : Nat := 2

/-- `FRAME_LEN` (00_scope.md R6). -/
def frameLen : Byte := 40

/-- `MSG_ID`, a 24-bit message type id (00_scope.md R6). -/
def msgId : BitVec 24 := 33

/-- `CRC_EXTRA` (00_scope.md R6). -/
def crcExtra : Byte := 104

/-- `CRC_SEED` (00_scope.md R6). -/
def crcSeed : Half := 0

/-- `INCOMPAT_FLAGS` (00_scope.md R6). -/
def incompatFlags : Byte := 0

/-- `COMPAT_FLAGS` (00_scope.md R6). -/
def compatFlags : Byte := 0

/-- The least declared payload length the lenient policy accepts: the longitude ends at payload offset 11
(42_decoder.md R164). -/
def minPayloadLen : Nat := 12

/-- `RXBUF_BYTES` (00_scope.md R7). -/
def rxBytes : Nat := 268

/-- `TXBUF_BYTES` (00_scope.md R7). -/
def txBytes : Nat := 40

/-- The OPEN parameter `COMP_ID` (00_scope.md R7): no value is given, so none can be proved of it
(notes/assumptions/1.md). -/
opaque compId : Byte

/-- The OPEN parameter `LATENCY` (00_scope.md R7, R8): how many host steps pass between the acceptance of the
`n`-th command, with command word `w`, and its completion. Any finite number, chosen anew for every command
(notes/assumptions/2.md). -/
opaque latency : (n : Nat) → (w : Word) → Nat

/-- The OPEN parameter `BASE`, where the platform places the window (20_memory.md R67). No rule depends on it
(notes/assumptions/10.md). -/
opaque base : Nat

end Sys2Proof.Config
end

