-- ==== Sys2Proof/Machine/State.lean ====
section
/-! DEFINITION. The state of the block as plain data (10_state.md R20), the reasons a step can stop, and the
state after reset (70_reset_and_hazards.md R210, R211). -/

namespace Sys2Proof.Machine

/-- The reasons the machine can stop with a fault: none. 93_implementation_defined.md: "No behaviour of the
model is `stuck`: every command completes, and every error leaves the block ready for the next command". Errors are
result codes in `STATUS.ERR` (60_exceptions.md R199) or `ERROR` responses on the bus (20_memory.md R61 to R64), and
both are next states. -/
inductive Fault where
deriving DecidableEq, Repr

/-- The reasons a step can be refused. -/
inductive Refusal where
  /-- Raised by `exec` for an instruction that has no meaning yet, naming it as the opcode table does. No arm of
  `exec` raises it: every command has its meaning. Safe. -/
  | notModelled (mnemonic : String)
deriving DecidableEq, Repr

/-- The bytes of one buffer, as (index, byte) pairs in one canonical form: indices strictly rising, no byte
0x00 listed. An unlisted byte reads 0x00, the reset content of both buffers (10_state.md R50, R51). -/
abbrev Memory := List Host.Cell

/-- The result codes of 60_exceptions.md R190 to R195. Codes 6 to 15 are reserved and never produced (R196). -/
inductive ResultCode where
  /-- Code 0 (60_exceptions.md R190). -/
  | ok
  /-- Code 1 (60_exceptions.md R191). -/
  | malformedFrame
  /-- Code 2 (60_exceptions.md R192). -/
  | unsupportedMessageType
  /-- Code 3 (60_exceptions.md R193). -/
  | checksumMismatch
  /-- Code 4 (60_exceptions.md R194). -/
  | scaleOutOfRange
  /-- Code 5 (60_exceptions.md R195). -/
  | illegalCommand
deriving DecidableEq, Repr

/-- The three fields of `STATUS` (10_state.md R29). Its other bits are reserved and read 0 (R28), so they
are no state. -/
structure Status where
  /-- `BUSY`, bit [0]. -/
  busy : Bool
  /-- `DONE`, bit [1]. -/
  done : Bool
  /-- `ERR`, bits [7:4]. -/
  err : BitVec 4
deriving DecidableEq, Repr

/-- The registers a host may write, and the receive buffer: all that a command can read. Each register holds
exactly the bits 10_state.md R21 says it uses. -/
structure Inputs where
  /-- `CTRL`, bits [2:0] (10_state.md R25 to R28). -/
  ctrl : BitVec 3
  /-- `CRC` (10_state.md R31). -/
  crc : Half
  /-- `SEQ` (10_state.md R32). -/
  seq : Byte
  /-- `SYSID` (10_state.md R33). -/
  sysId : Byte
  /-- `TIME` (10_state.md R34). -/
  time : Word
  /-- `LAT_F64_LO` (10_state.md R35). -/
  latF64Lo : Word
  /-- `LAT_F64_HI` (10_state.md R35). -/
  latF64Hi : Word
  /-- `LON_F64_LO` (10_state.md R36). -/
  lonF64Lo : Word
  /-- `LON_F64_HI` (10_state.md R36). -/
  lonF64Hi : Word
  /-- `LAT_E7` (10_state.md R37). -/
  latE7 : Word
  /-- `LON_E7` (10_state.md R38). -/
  lonE7 : Word
  /-- `ALT` (10_state.md R39). -/
  alt : Word
  /-- `RELALT` (10_state.md R40). -/
  relAlt : Word
  /-- `VX` (10_state.md R41). -/
  vx : Half
  /-- `VY` (10_state.md R41). -/
  vy : Half
  /-- `VZ` (10_state.md R41). -/
  vz : Half
  /-- `HDG` (10_state.md R42). -/
  hdg : Half
  /-- `RXLEN` (10_state.md R44). -/
  rxLen : Half
  /-- `RXBUF`, bytes 0 to 267 (10_state.md R51). -/
  rxbuf : Memory
deriving DecidableEq, Repr

/-- A latched command: what `PEND` holds when it is not `none` (10_state.md R24). -/
structure Pending where
  /-- The command word. -/
  word : Word
  /-- The snapshot taken at acceptance (notes/assumptions/7.md). -/
  inputs : Inputs
  /-- The model's own: how many host steps are still to pass before the completion step
  (00_scope.md R8, notes/assumptions/2.md). -/
  wait : Nat
deriving DecidableEq, Repr

/-- How a bus transaction is answered (20_memory.md R60). -/
inductive RespCode where
  | okay | error
deriving DecidableEq, Repr

/-- The response of a bus transaction: its code and, for a read, a 32-bit value (20_memory.md R60). -/
structure Response where
  /-- `OKAY` or `ERROR`. -/
  code : RespCode
  /-- The value of a read; a write returns none. -/
  data : Option Word
deriving DecidableEq, Repr

/-- The state of the block (10_state.md R20), and three fields of the model's own: `events`, `resp` and
`accepted`. `ID0`, `ID1` and `CMD` hold no changing value (10_state.md R22, R23, R30) and are no fields. -/
structure State extends Inputs where
  /-- `STATUS` (10_state.md R29). -/
  status : Status
  /-- `ENC_CRC` (10_state.md R43). -/
  encCrc : Half
  /-- `DEC_SYSID` (10_state.md R45). -/
  decSysId : Byte
  /-- `DEC_LAT_E7` (10_state.md R46). -/
  decLatE7 : Word
  /-- `DEC_LON_E7` (10_state.md R46). -/
  decLonE7 : Word
  /-- `DEC_LAT_F64_LO` (10_state.md R47). -/
  decLatF64Lo : Word
  /-- `DEC_LAT_F64_HI` (10_state.md R47). -/
  decLatF64Hi : Word
  /-- `DEC_LON_F64_LO` (10_state.md R47). -/
  decLonF64Lo : Word
  /-- `DEC_LON_F64_HI` (10_state.md R47). -/
  decLonF64Hi : Word
  /-- `DEC_CRC_CALC` (10_state.md R48). -/
  decCrcCalc : Half
  /-- `DEC_CRC_RX` (10_state.md R49). -/
  decCrcRx : Half
  /-- `TXBUF`, bytes 0 to 39 (10_state.md R50). -/
  txbuf : Memory
  /-- `PEND`, the hidden command latch (10_state.md R24). -/
  pend : Option Pending
  /-- The model's own: what the host and the reset line do next (00_scope.md R8, notes/assumptions/4.md). -/
  events : List Event
  /-- The model's own: the response of the last bus transaction (20_memory.md R60, notes/assumptions/5.md). -/
  resp : Option Response
  /-- The model's own: how many commands have been accepted, the counter the free latency is applied to
  (notes/assumptions/2.md). -/
  accepted : Nat
deriving DecidableEq, Repr

/-- The register values and buffer bytes a command can read, as reset leaves them (10_state.md R21). -/
def Inputs.reset : Inputs where
  ctrl := 0b011
  crc := 0
  seq := 0
  sysId := 0
  time := 0
  latF64Lo := 0
  latF64Hi := 0
  lonF64Lo := 0
  lonF64Hi := 0
  latE7 := 0
  lonE7 := 0
  alt := 0
  relAlt := 0
  vx := 0
  vy := 0
  vz := 0
  hdg := 0
  rxLen := 0
  rxbuf := []

/-- The state right after reset (70_reset_and_hazards.md R210, R211; 10_state.md R21). -/
def State.reset : State where
  toInputs := Inputs.reset
  status := { busy := false, done := false, err := 0 }
  encCrc := 0
  decSysId := 0
  decLatE7 := 0
  decLonE7 := 0
  decLatF64Lo := 0
  decLatF64Hi := 0
  decLonF64Lo := 0
  decLonF64Hi := 0
  decCrcCalc := 0
  decCrcRx := 0
  txbuf := []
  pend := none
  events := []
  resp := none
  accepted := 0

end Sys2Proof.Machine
end

