-- ==== Sys2Proof/Machine/Flags.lean ====
section
/-! DEFINITION. `STATUS`, the result codes and the `CTRL` switches: the only flags of the block
(10_state.md R25 to R29, R53; 60_exceptions.md R190 to R195). -/

namespace Sys2Proof.Machine

/-- The number of a result code (60_exceptions.md R190 to R195). -/
def ResultCode.bits : ResultCode → BitVec 4
  | .ok => 0
  | .malformedFrame => 1
  | .unsupportedMessageType => 2
  | .checksumMismatch => 3
  | .scaleOutOfRange => 4
  | .illegalCommand => 5

/-- `STATUS` after the acceptance of a command: `BUSY=1, DONE=0, ERR=0` (20_memory.md R65). -/
def statusAccepted : Status := { busy := true, done := false, err := 0 }

/-- `STATUS` after `complete(code)`: `BUSY=0, DONE=1, ERR=code` (00_scope.md R13, 60_exceptions.md R199). -/
def statusCompleted (c : ResultCode) : Status := { busy := false, done := true, err := c.bits }

/-- `STATUS` as a bus word: `BUSY` [0], `DONE` [1], `ERR` [7:4], every other bit 0 (10_state.md R28, R29). -/
def Status.toWord (st : Status) : Word :=
  (0 : BitVec 24) ++ st.err ++ (0 : BitVec 2) ++ BitVec.ofBool st.done ++ BitVec.ofBool st.busy

/-- `CTRL.VERIFY_CRC`, bit [0] (10_state.md R25). -/
def Inputs.verifyCrc (o : Inputs) : Bool := o.ctrl.getLsbD 0

/-- `CTRL.STRICT_LEN`, bit [1] (10_state.md R26). -/
def Inputs.strictLen (o : Inputs) : Bool := o.ctrl.getLsbD 1

/-- `CTRL.SEQ_AUTO`, bit [2] (10_state.md R27). -/
def Inputs.seqAuto (o : Inputs) : Bool := o.ctrl.getLsbD 2

end Sys2Proof.Machine
end

