-- ==== Sys2Proof/Machine/Ops.lean ====
section
/-! DEFINITION. The named operations over the buffers and the state: reading and writing bytes, accepting a
command, completing it (the block's way of taking an exception, 00_scope.md R13), and the reset event. -/

namespace Sys2Proof.Machine

/-- Byte `a` of a buffer. A byte that is not listed is 0x00, its value after reset (10_state.md R50, R51). -/
def Memory.read : Memory → Nat → Byte
  | [], _ => 0
  | (k, v) :: m, a => if k = a then v else Memory.read m a

/-- Sets byte `a` of a buffer and keeps the canonical form: an entry is never 0x00. -/
def Memory.write : Memory → Nat → Byte → Memory
  | [], a, b => if b = 0 then [] else [(a, b)]
  | (k, v) :: m, a, b =>
    if a < k then (if b = 0 then (k, v) :: m else (a, b) :: (k, v) :: m)
    else if a = k then (if b = 0 then m else (k, b) :: m)
    else (k, v) :: Memory.write m a b

/-- Sets the bytes from index `a` on, in order. (Not unfolded by `rfl`: its lemmas stand in Laws/Memory.lean.) -/
@[irreducible] def Memory.writeBytes : Memory → Nat → List Byte → Memory
  | m, _, [] => m
  | m, a, b :: bs => Memory.writeBytes (Memory.write m a b) (a + 1) bs

/-- The `n` bytes from index `a` on, in order. -/
def Memory.readBytes (m : Memory) : Nat → Nat → List Byte
  | _, 0 => []
  | a, n + 1 => Memory.read m a :: Memory.readBytes m (a + 1) n

/-- Indices strictly rising from `lo` on, and no entry 0x00. -/
def Memory.wfFrom : Nat → Memory → Bool
  | _, [] => true
  | lo, (k, v) :: m => decide (lo ≤ k) && v != 0 && Memory.wfFrom (k + 1) m

/-- The canonical form: indices strictly rising, and no entry equal to what an unlisted byte reads as. -/
def Memory.wf (m : Memory) : Bool := Memory.wfFrom 0 m

/-- Every listed index is below `n`: nothing is stored outside a buffer of `n` bytes. -/
def Memory.within (n : Nat) : Memory → Bool
  | [] => true
  | (k, _) :: m => decide (k < n) && Memory.within n m

/-- Latches command word `w` with `n` host steps to pass before its completion: `PEND` takes the word and the
snapshot, and `STATUS` becomes `BUSY=1, DONE=0, ERR=0` (20_memory.md R65, 10_state.md R24). -/
def latchCommand (w : Word) (n : Nat) (s : State) : State :=
  { s with
    pend := some { word := w, inputs := s.toInputs, wait := n }
    status := statusAccepted }

/-- Accepts command word `w` (20_memory.md R65, 10_state.md R24). How many host steps pass before the completion
is the OPEN parameter `LATENCY` (00_scope.md R8), applied to the count of accepted commands. -/
def acceptCommand (w : Word) (s : State) : State :=
  { latchCommand w (Config.latency s.accepted w) s with accepted := s.accepted + 1 }

/-- `complete(code)` (00_scope.md R13): the end of a command, with or without an error. `STATUS` becomes
`BUSY=0, DONE=1, ERR=code` and `PEND` becomes `none` (10_state.md R24). This is all that an error does: it
transfers no control, saves nothing and changes no mode (60_exceptions.md R199), and there is no return from it
(60_exceptions.md R200). -/
def complete (c : ResultCode) (s : State) : State :=
  { s with status := statusCompleted c, pend := none }

/-- The completion of a command word that is no command: `complete(ILLEGAL_COMMAND)` and no other effect
(30_encoding.md R88, 60_exceptions.md R195). -/
def completeIllegal (s : State) : State := complete .illegalCommand s

/-- One host step passes while a command is pending (00_scope.md R8). -/
def passHostStep (s : State) : State :=
  { s with pend := s.pend.map fun p => { p with wait := p.wait - 1 } }

/-- The reset event (70_reset_and_hazards.md R210): every register, both buffers and `PEND` take their reset
values in one update. The world outside goes on: the events still to come and the count of accepted commands stay
(notes/assumptions/9.md). -/
def resetEvent (s : State) : State :=
  { State.reset with events := s.events, accepted := s.accepted }

end Sys2Proof.Machine
end

