-- ==== Sys2Proof/Machine/Operands.lean ====
section
/-! DEFINITION. The operands of the commands and the byte-order helpers: where a command reads (10_state.md R24,
30_encoding.md R96, R97), and little-endian assembly (00_scope.md R11). -/

namespace Sys2Proof.Machine

/-- `LE16(b0, b1)` (00_scope.md R11). -/
def le16 (b0 b1 : Byte) : Half := b1 ++ b0

/-- `LE24(b0, b1, b2)` (00_scope.md R11). -/
def le24 (b0 b1 b2 : Byte) : BitVec 24 := b2 ++ b1 ++ b0

/-- `LE32(b0, b1, b2, b3)` (00_scope.md R11). -/
def le32 (b0 b1 b2 b3 : Byte) : Word := b3 ++ b2 ++ b1 ++ b0

/-- `bytesLE_16(v)`, least significant byte first (00_scope.md R11). -/
def bytesLE16 (v : Half) : List Byte := [v.extractLsb' 0 8, v.extractLsb' 8 8]

/-- `bytesLE_32(v)`, least significant byte first (00_scope.md R11). -/
def bytesLE32 (v : Word) : List Byte :=
  [v.extractLsb' 0 8, v.extractLsb' 8 8, v.extractLsb' 16 8, v.extractLsb' 24 8]

/-- `LE16` of bytes `i` and `i + 1` of a buffer. -/
def Memory.half (m : Memory) (i : Nat) : Half := le16 (Memory.read m i) (Memory.read m (i + 1))

/-- `LE32` of bytes `i` to `i + 3` of a buffer. -/
def Memory.word (m : Memory) (i : Nat) : Word :=
  le32 (Memory.read m i) (Memory.read m (i + 1)) (Memory.read m (i + 2)) (Memory.read m (i + 3))

/-- What the pending command reads: the snapshot taken at its acceptance (10_state.md R24, 30_encoding.md R96).
With no command pending, the live values (notes/assumptions/8.md). -/
def State.operands (s : State) : Inputs :=
  match s.pend with
  | some p => p.inputs
  | none => s.toInputs

/-- The latitude in degrees, `LAT_F64_HI:LAT_F64_LO` (10_state.md R35). -/
def Inputs.latF64 (o : Inputs) : F64 := o.latF64Hi ++ o.latF64Lo

/-- The longitude in degrees, `LON_F64_HI:LON_F64_LO` (10_state.md R36). -/
def Inputs.lonF64 (o : Inputs) : F64 := o.lonF64Hi ++ o.lonF64Lo

/-- `L`, the length of the received buffer (30_encoding.md R97). -/
def Inputs.rxLength (o : Inputs) : Nat := o.rxLen.toNat

/-- `n`, the declared payload length, frame byte 1 (30_encoding.md R97). -/
def Inputs.rxDeclared (o : Inputs) : Nat := (Memory.read o.rxbuf 1).toNat

/-- `msgId`, frame bytes 7 to 9 (30_encoding.md R97). -/
def Inputs.rxMsgId (o : Inputs) : BitVec 24 :=
  le24 (Memory.read o.rxbuf 7) (Memory.read o.rxbuf 8) (Memory.read o.rxbuf 9)

/-- `sysId`, frame byte 5 (30_encoding.md R97). -/
def Inputs.rxSysId (o : Inputs) : Byte := Memory.read o.rxbuf 5

/-- `lat`, frame bytes 14 to 17 (30_encoding.md R97). -/
def Inputs.rxLat (o : Inputs) : Word := Memory.word o.rxbuf 14

/-- `lon`, frame bytes 18 to 21 (30_encoding.md R97). -/
def Inputs.rxLon (o : Inputs) : Word := Memory.word o.rxbuf 18

/-- `rx`, the received checksum, frame bytes `10 + n` and `11 + n` (30_encoding.md R97). -/
def Inputs.rxChecksum (o : Inputs) : Half := Memory.half o.rxbuf (10 + o.rxDeclared)

end Sys2Proof.Machine
end

