-- ==== Sys2Proof/Machine/Crc.lean ====
section
/-! DEFINITION. The checksum function (40_crc.md R110 to R112) and the four commands that touch no frame: `NOP`,
`CRC_CLEAR`, `CRC_ACC`, `CRC_EXTEND` (40_crc.md R113 to R116). -/

namespace Sys2Proof.Machine

/-- `crc_acc(c, b)`, step by step as 40_crc.md R110 gives it. -/
def crcAcc (c : Half) (b : Byte) : Half :=
  let t1 : Byte := b ^^^ c.extractLsb' 0 8
  let t : Byte := t1 ^^^ (t1 <<< 4)
  let f : Half := t.zeroExtend 16
  (c >>> 8) ^^^ (f <<< 8) ^^^ (f <<< 3) ^^^ (f >>> 4)

/-- `crc_bytes(s, B)` (40_crc.md R111). -/
def crcBytes : Half → List Byte → Half
  | s, [] => s
  | s, b :: rest => crcBytes (crcAcc s b) rest

/-- `checksumOf(B)`, from the zero seed (40_crc.md R111, R120). -/
def checksumOf (bs : List Byte) : Half := crcBytes Config.crcSeed bs

/-- `extend(c, x)` (40_crc.md R112). -/
def crcExtend (c : Half) (x : Byte) : Half := crcAcc c x

/-- The checksum of a frame over the bytes from its length field to the end of its payload, then the extra byte
folded in (30_encoding.md R94): a private accumulator that starts at zero (40_crc.md R117). -/
def crcFrame (covered : List Byte) : Half := crcExtend (checksumOf covered) Config.crcExtra

/-- `NOP` (40_crc.md R113). -/
def execNop (s : State) : Host.Outcome State Fault Refusal :=
  .next (complete .ok s)

/-- `CRC_CLEAR` (40_crc.md R114). -/
def execCrcClear (s : State) : Host.Outcome State Fault Refusal :=
  .next (complete .ok { s with crc := Config.crcSeed })

/-- `CRC_ACC b` (40_crc.md R115). -/
def execCrcAcc (b : Byte) (s : State) : Host.Outcome State Fault Refusal :=
  .next (complete .ok { s with crc := crcAcc s.operands.crc b })

/-- `CRC_EXTEND` (40_crc.md R116). -/
def execCrcExtend (s : State) : Host.Outcome State Fault Refusal :=
  .next (complete .ok { s with crc := crcExtend s.operands.crc Config.crcExtra })

end Sys2Proof.Machine
end

