-- ==== Sys2Proof/Machine/Float.lean ====
section
/-! DEFINITION. The binary64 operations of 00_scope.md R14, on 64-bit patterns: correctly rounded product and
quotient, conversion of an integer, truncation. A finite value is a sign and a natural number of units of
`2 ^ (-1074)`, the smallest positive binary64 value. -/

namespace Sys2Proof.Machine

/-- The sign bit (00_scope.md R14). -/
def f64Sign (x : F64) : Bool := x.getLsbD 63

/-- The biased exponent, 11 bits (00_scope.md R14). -/
def f64Exp (x : F64) : Nat := (x.extractLsb' 52 11).toNat

/-- The fraction, 52 bits (00_scope.md R14). -/
def f64Frac (x : F64) : Nat := (x.extractLsb' 0 52).toNat

/-- `is_nan(x)` (00_scope.md R14). -/
def f64IsNan (x : F64) : Bool := f64Exp x == 2047 && f64Frac x != 0

/-- `is_inf(x)` (00_scope.md R14). -/
def f64IsInf (x : F64) : Bool := f64Exp x == 2047 && f64Frac x == 0

/-- `x` is a finite value. -/
def f64IsFinite (x : F64) : Bool := f64Exp x != 2047

/-- The magnitude of a finite `x` in units of `2 ^ (-1074)`: a subnormal is its fraction, a normal value its 53-bit
significand shifted by its exponent. -/
def f64Units (x : F64) : Nat :=
  if f64Exp x = 0 then f64Frac x else (2 ^ 52 + f64Frac x) * 2 ^ (f64Exp x - 1)

/-- The magnitude bits of `num / den` rounded to nearest, ties to even; the pattern of infinity when the rounded
value has no finite pattern (IEEE 754, 00_scope.md R14; notes/assumptions/12.md). With `e` the exponent of the unit
in the last place, the significand `q` (with its leading 1) added to `e * 2 ^ 52` is the pattern, and a carry out of
`q` steps into the next exponent by itself. -/
def roundMagnitude (num den : Nat) : Nat :=
  let n := num * 2 ^ 1074
  let e := Nat.log2 (n / den) - 52
  let d := den * 2 ^ e
  let q := n / d
  let r := n % d
  let up := decide (d < 2 * r) || (decide (2 * r = d) && decide (q % 2 = 1))
  let bits := e * 2 ^ 52 + (if up then q + 1 else q)
  min bits 0x7FF0000000000000

/-- A pattern from its sign and its magnitude bits. -/
def f64Pack (sign : Bool) (magnitude : Nat) : F64 := BitVec.ofBool sign ++ BitVec.ofNat 63 magnitude

/-- `mul_rne(x, y)` of finite `x` and `y` (00_scope.md R14). No rule applies it to a NaN or an infinity
(41_encoder.md R130, notes/assumptions/14.md). -/
def mulRne (x y : F64) : F64 :=
  f64Pack (f64Sign x ^^ f64Sign y) (roundMagnitude (f64Units x * f64Units y) (2 ^ 2148))

/-- `div_rne(x, y)` of finite `x` and finite non-zero `y` (00_scope.md R14; notes/assumptions/14.md). -/
def divRne (x y : F64) : F64 :=
  f64Pack (f64Sign x ^^ f64Sign y) (roundMagnitude (f64Units x) (f64Units y))

/-- `f64_of_int(k)`, exact for `|k| < 2 ^ 53` (00_scope.md R14). Zero converts to +0.0
(notes/assumptions/13.md). -/
def f64OfInt (k : Int) : F64 := f64Pack (decide (k < 0)) (roundMagnitude k.natAbs 1)

/-- `trunc(x)` of a finite `x`: the integer part, toward zero (00_scope.md R14). -/
def f64Trunc (x : F64) : Int :=
  let m : Int := ((f64Units x / 2 ^ 1074 : Nat) : Int)
  if f64Sign x then -m else m

/-- 10000000.0 as a binary64 pattern: `COORD_SCALE`, exactly representable (00_scope.md R6, 41_encoder.md R130). -/
def coordScale : F64 := 0x416312D000000000

end Sys2Proof.Machine
end

