-- ==== Sys2Proof/Machine/Decoder.lean ====
section
/-! DEFINITION. The frame decoder: the ordered checks and the field extraction of 42_decoder.md R160 to R169, and
the command `DECODE`. -/

namespace Sys2Proof.Machine

/-- How a buffer is judged (42_decoder.md R160). -/
inductive DecodeResult where
  /-- `MALFORMED_FRAME` (42_decoder.md R161, R162, R164). -/
  | malformed
  /-- `UNSUPPORTED_MESSAGE_TYPE` (42_decoder.md R163). -/
  | unsupported
  /-- `CHECKSUM_MISMATCH`, with the two checksums it records (42_decoder.md R166). -/
  | mismatch (computed received : Half)
  /-- `OK`, with the checksums and the sample (42_decoder.md R167). -/
  | sample (computed received : Half) (sysId : Byte) (lat lon : Word)
deriving DecidableEq, Repr

/-- The length policy rejects declared length `n` (42_decoder.md R164). -/
def lengthRejected (strict : Bool) (n : Nat) : Bool :=
  if strict then n != Config.payloadLen.toNat else decide (n < Config.minPayloadLen)

/-- The checksum computed over bytes 1 to `9 + n` of the received buffer (42_decoder.md R165). -/
def Inputs.calcChecksum (o : Inputs) : Half :=
  crcFrame (Memory.readBytes o.rxbuf 1 (9 + o.rxDeclared))

/-- The checks of 42_decoder.md R160 in their order; the first that fails ends the command. The lengths are
compared as unbounded integers (42_decoder.md R162). -/
def decodeFrame (o : Inputs) : DecodeResult :=
  if o.rxLength < Config.hdrLen then .malformed
  else if o.rxLength < Config.hdrLen + o.rxDeclared + Config.crcLen then .malformed
  else if o.rxMsgId ≠ Config.msgId then .unsupported
  else if lengthRejected o.strictLen o.rxDeclared then .malformed
  else if o.verifyCrc && o.calcChecksum != o.rxChecksum then .mismatch o.calcChecksum o.rxChecksum
  else .sample o.calcChecksum o.rxChecksum o.rxSysId o.rxLat o.rxLon

/-- Degrees of a coordinate wire value: `div_rne(f64_of_int(lat), 1e7)` (42_decoder.md R168). -/
def degreesOf (e7 : Word) : F64 := divRne (f64OfInt e7.toInt) coordScale

/-- Records the two checksums (42_decoder.md R165). -/
def recordChecksums (computed received : Half) (s : State) : State :=
  { s with decCrcCalc := computed, decCrcRx := received }

/-- Writes the recovered sample to the decoder's output registers (42_decoder.md R167 to R169). -/
def writeSample (sysId : Byte) (lat lon : Word) (s : State) : State :=
  { s with
    decSysId := sysId
    decLatE7 := lat
    decLonE7 := lon
    decLatF64Lo := (degreesOf lat).extractLsb' 0 32
    decLatF64Hi := (degreesOf lat).extractLsb' 32 32
    decLonF64Lo := (degreesOf lon).extractLsb' 0 32
    decLonF64Hi := (degreesOf lon).extractLsb' 32 32 }

/-- `DECODE` (42_decoder.md R160, R169). -/
def execDecode (s : State) : Host.Outcome State Fault Refusal :=
  match decodeFrame s.operands with
  | .malformed => .next (complete .malformedFrame s)
  | .unsupported => .next (complete .unsupportedMessageType s)
  | .mismatch computed received => .next (complete .checksumMismatch (recordChecksums computed received s))
  | .sample computed received sysId lat lon =>
    .next (complete .ok (writeSample sysId lat lon (recordChecksums computed received s)))

end Sys2Proof.Machine
end

