-- ==== Sys2Proof/Machine/Encoder.lean ====
section
/-! DEFINITION. The frame encoder: coordinate scaling (41_encoder.md R130), frame construction (R133 to R136) and
the commands `ENCODE` (R138) and `ENCODE_RAW` (R139). -/

namespace Sys2Proof.Machine

/-- An integer as an `i32`, or `none` (`RANGE`) outside its range (41_encoder.md R130). -/
def toI32 (q : Int) : Option Word :=
  if q < -2147483648 || q > 2147483647 then none else some (BitVec.ofInt 32 q)

/-- `scale(x)` (41_encoder.md R130); `none` is `RANGE`. -/
def scale (x : F64) : Option Word :=
  if f64IsNan x || f64IsInf x then none
  else
    let p := mulRne x coordScale
    if f64IsInf p then none
    else toI32 (f64Trunc p)

/-- The 28 payload bytes, with `la` and `lo` the coordinate wire values (41_encoder.md R133). -/
def payloadBytes (o : Inputs) (la lo : Word) : List Byte :=
  bytesLE32 o.time ++ bytesLE32 la ++ bytesLE32 lo ++ bytesLE32 o.alt ++ bytesLE32 o.relAlt ++
    bytesLE16 o.vx ++ bytesLE16 o.vy ++ bytesLE16 o.vz ++ bytesLE16 o.hdg

/-- The message type id as its three frame bytes, least significant first (30_encoding.md R90). -/
def msgIdBytes : List Byte :=
  [Config.msgId.extractLsb' 0 8, Config.msgId.extractLsb' 8 8, Config.msgId.extractLsb' 16 8]

/-- The nine header bytes after the magic byte (41_encoder.md R134). -/
def headerTail (compId : Byte) (o : Inputs) : List Byte :=
  [Config.payloadLen, Config.incompatFlags, Config.compatFlags, o.seq, o.sysId, compId] ++ msgIdBytes

/-- The checksum of the frame, over the header after the magic byte and the payload (41_encoder.md R136).
(Not unfolded by `rfl`.) -/
@[irreducible] def frameChecksum (compId : Byte) (o : Inputs) (la lo : Word) : Half :=
  crcFrame (headerTail compId o ++ payloadBytes o la lo)

/-- The 40 bytes of a frame: magic byte, header, payload, checksum (41_encoder.md R134, R136). -/
def frameBytes (compId : Byte) (o : Inputs) (la lo : Word) : List Byte :=
  [Config.magic] ++ headerTail compId o ++ payloadBytes o la lo ++ bytesLE16 (frameChecksum compId o la lo)

/-- Writes the frame for coordinates `la` and `lo` to `TXBUF` and its checksum to `ENC_CRC` (41_encoder.md R136),
and steps `SEQ` when `CTRL.SEQ_AUTO = 1` (41_encoder.md R137). -/
def emitFrame (la lo : Word) (s : State) : State :=
  { s with
    txbuf := Memory.writeBytes s.txbuf 0 (frameBytes Config.compId s.operands la lo)
    encCrc := frameChecksum Config.compId s.operands la lo
    seq := if s.operands.seqAuto then s.operands.seq + 1 else s.seq }

/-- `ENCODE` (41_encoder.md R138). -/
def execEncode (s : State) : Host.Outcome State Fault Refusal :=
  match scale s.operands.latF64, scale s.operands.lonF64 with
  | some la, some lo => .next (complete .ok { emitFrame la lo s with latE7 := la, lonE7 := lo })
  | _, _ => .next (complete .scaleOutOfRange s)

/-- `ENCODE_RAW` (41_encoder.md R139). -/
def execEncodeRaw (s : State) : Host.Outcome State Fault Refusal :=
  .next (complete .ok (emitFrame s.operands.latE7 s.operands.lonE7 s))

end Sys2Proof.Machine
end

