-- ==== Sys2Proof/Machine/Dispatch.lean ====
section
/-! DEFINITION. The engine's completion step for each command: one arm per row of the opcode table. -/

namespace Sys2Proof.Machine

def exec (i : Instr) (s : State) : Host.Outcome State Fault Refusal :=
  match i with
  | .nop => Sys2Proof.Machine.execNop s
  | .crcAcc b => Sys2Proof.Machine.execCrcAcc b s
  | .crcExtend => Sys2Proof.Machine.execCrcExtend s
  | .crcClear => Sys2Proof.Machine.execCrcClear s
  | .encode => Sys2Proof.Machine.execEncode s
  | .encodeRaw => Sys2Proof.Machine.execEncodeRaw s
  | .decode => Sys2Proof.Machine.execDecode s

end Sys2Proof.Machine
end

