-- ==== Sys2Proof/Machine/RegisterMap.lean ====
section
/-! DEFINITION. The register map (10_state.md R21): offsets, access rights, bits used, and the reads and writes of
the registers and the buffer words. -/

namespace Sys2Proof.Machine

/-- The access column of 10_state.md R21. -/
inductive Access where
  /-- Read and write. -/
  | rw
  /-- Read only; a write gets a bus error. -/
  | ro
  /-- Write only; a read returns 0. -/
  | wo
deriving DecidableEq, Repr

/-- What a word-aligned offset of the window holds (10_state.md R21). -/
inductive BusTarget where
  /-- A register. -/
  | reg (r : RegName)
  /-- Bus word `k` of `TXBUF`. -/
  | txWord (k : Nat)
  /-- Bus word `k` of `RXBUF`. -/
  | rxWord (k : Nat)
deriving DecidableEq, Repr

/-- The registers in the order of 10_state.md R21. -/
def allRegs : List RegName :=
  [.id0, .id1, .ctrl, .status, .cmd, .crc, .seq, .sysId, .time,
   .latF64Lo, .latF64Hi, .lonF64Lo, .lonF64Hi, .latE7, .lonE7,
   .alt, .relAlt, .vx, .vy, .vz, .hdg, .encCrc, .rxLen,
   .decSysId, .decLatE7, .decLonE7,
   .decLatF64Lo, .decLatF64Hi, .decLonF64Lo, .decLonF64Hi,
   .decCrcCalc, .decCrcRx]

/-- The column "offset" of 10_state.md R21. -/
def regOffset : RegName → Offset
  | .id0 => 0x000
  | .id1 => 0x004
  | .ctrl => 0x008
  | .status => 0x00C
  | .cmd => 0x010
  | .crc => 0x014
  | .seq => 0x018
  | .sysId => 0x01C
  | .time => 0x020
  | .latF64Lo => 0x024
  | .latF64Hi => 0x028
  | .lonF64Lo => 0x02C
  | .lonF64Hi => 0x030
  | .latE7 => 0x034
  | .lonE7 => 0x038
  | .alt => 0x03C
  | .relAlt => 0x040
  | .vx => 0x044
  | .vy => 0x048
  | .vz => 0x04C
  | .hdg => 0x050
  | .encCrc => 0x054
  | .rxLen => 0x058
  | .decSysId => 0x05C
  | .decLatE7 => 0x060
  | .decLonE7 => 0x064
  | .decLatF64Lo => 0x068
  | .decLatF64Hi => 0x06C
  | .decLonF64Lo => 0x070
  | .decLonF64Hi => 0x074
  | .decCrcCalc => 0x078
  | .decCrcRx => 0x07C

/-- The column "access" of 10_state.md R21. -/
def regAccess : RegName → Access
  | .id0 | .id1 | .status | .encCrc
  | .decSysId | .decLatE7 | .decLonE7
  | .decLatF64Lo | .decLatF64Hi | .decLonF64Lo | .decLonF64Hi
  | .decCrcCalc | .decCrcRx => .ro
  | .cmd => .wo
  | .ctrl | .crc | .seq | .sysId | .time
  | .latF64Lo | .latF64Hi | .lonF64Lo | .lonF64Hi | .latE7 | .lonE7
  | .alt | .relAlt | .vx | .vy | .vz | .hdg | .rxLen => .rw

/-- The column "bits used" of 10_state.md R21, as a mask. -/
def regBitsUsed : RegName → Word
  | .ctrl => 0x00000007
  | .status => 0x000000F3
  | .seq | .sysId | .decSysId => 0x000000FF
  | .crc | .vx | .vy | .vz | .hdg | .encCrc | .rxLen | .decCrcCalc | .decCrcRx => 0x0000FFFF
  | .id0 | .id1 | .cmd | .time
  | .latF64Lo | .latF64Hi | .lonF64Lo | .lonF64Hi | .latE7 | .lonE7 | .alt | .relAlt
  | .decLatE7 | .decLonE7
  | .decLatF64Lo | .decLatF64Hi | .decLonF64Lo | .decLonF64Hi => 0xFFFFFFFF

/-- Where `TXBUF` begins in the window (10_state.md R50). -/
def txBase : Nat := 0x100

/-- Where `RXBUF` begins in the window (10_state.md R51). -/
def rxBase : Nat := 0x200

/-- What the word-aligned offset `a` holds; `none` where nothing is mapped (10_state.md R21, 20_memory.md R62). -/
def busTarget (a : Offset) : Option BusTarget :=
  match allRegs.find? (fun r => regOffset r == a) with
  | some r => some (.reg r)
  | none =>
    if txBase ≤ a.toNat ∧ a.toNat < txBase + Config.txBytes then some (.txWord ((a.toNat - txBase) / 4))
    else if rxBase ≤ a.toNat ∧ a.toNat < rxBase + Config.rxBytes then some (.rxWord ((a.toNat - rxBase) / 4))
    else none

/-- `ID0`: `MAGIC`, `CRC_EXTRA`, `PAYLOAD_LEN`, `COMP_ID` from the top byte down (10_state.md R22). -/
def id0Word (compId : Byte) : Word := Config.magic ++ Config.crcExtra ++ Config.payloadLen ++ compId

/-- `ID1`: `FRAME_LEN` above the 24-bit `MSG_ID` (10_state.md R23). -/
def id1Word : Word := Config.frameLen ++ Config.msgId

/-- The value a register reads as: the bits used, zero-extended (10_state.md R28, 20_memory.md R66). -/
def readReg (r : RegName) (s : State) : Word :=
  match r with
  | .id0 => id0Word Config.compId
  | .id1 => id1Word
  | .ctrl => s.ctrl.zeroExtend 32
  | .status => s.status.toWord
  | .cmd => 0
  | .crc => s.crc.zeroExtend 32
  | .seq => s.seq.zeroExtend 32
  | .sysId => s.sysId.zeroExtend 32
  | .time => s.time
  | .latF64Lo => s.latF64Lo
  | .latF64Hi => s.latF64Hi
  | .lonF64Lo => s.lonF64Lo
  | .lonF64Hi => s.lonF64Hi
  | .latE7 => s.latE7
  | .lonE7 => s.lonE7
  | .alt => s.alt
  | .relAlt => s.relAlt
  | .vx => s.vx.zeroExtend 32
  | .vy => s.vy.zeroExtend 32
  | .vz => s.vz.zeroExtend 32
  | .hdg => s.hdg.zeroExtend 32
  | .encCrc => s.encCrc.zeroExtend 32
  | .rxLen => s.rxLen.zeroExtend 32
  | .decSysId => s.decSysId.zeroExtend 32
  | .decLatE7 => s.decLatE7
  | .decLonE7 => s.decLonE7
  | .decLatF64Lo => s.decLatF64Lo
  | .decLatF64Hi => s.decLatF64Hi
  | .decLonF64Lo => s.decLonF64Lo
  | .decLonF64Hi => s.decLonF64Hi
  | .decCrcCalc => s.decCrcCalc.zeroExtend 32
  | .decCrcRx => s.decCrcRx.zeroExtend 32

/-- What a write of `v` to a register does: `none` is a refused write. A read-write register stores the bits it
uses and discards the rest (10_state.md R28); a read-only one refuses (20_memory.md R63); `CMD` accepts a command
while `PEND = none` (10_state.md R24, 20_memory.md R65; notes/assumptions/16.md). -/
def writeReg (r : RegName) (v : Word) (s : State) : Option State :=
  match r with
  | .ctrl => some { s with ctrl := v.extractLsb' 0 3 }
  | .cmd => if s.pend.isSome then none else some (acceptCommand v s)
  | .crc => some { s with crc := v.extractLsb' 0 16 }
  | .seq => some { s with seq := v.extractLsb' 0 8 }
  | .sysId => some { s with sysId := v.extractLsb' 0 8 }
  | .time => some { s with time := v }
  | .latF64Lo => some { s with latF64Lo := v }
  | .latF64Hi => some { s with latF64Hi := v }
  | .lonF64Lo => some { s with lonF64Lo := v }
  | .lonF64Hi => some { s with lonF64Hi := v }
  | .latE7 => some { s with latE7 := v }
  | .lonE7 => some { s with lonE7 := v }
  | .alt => some { s with alt := v }
  | .relAlt => some { s with relAlt := v }
  | .vx => some { s with vx := v.extractLsb' 0 16 }
  | .vy => some { s with vy := v.extractLsb' 0 16 }
  | .vz => some { s with vz := v.extractLsb' 0 16 }
  | .hdg => some { s with hdg := v.extractLsb' 0 16 }
  | .rxLen => some { s with rxLen := v.extractLsb' 0 16 }
  | .id0 | .id1 | .status | .encCrc
  | .decSysId | .decLatE7 | .decLonE7
  | .decLatF64Lo | .decLatF64Hi | .decLonF64Lo | .decLonF64Hi
  | .decCrcCalc | .decCrcRx => none

/-- The value a mapped word reads as (10_state.md R50, R51; 20_memory.md R66, R68). -/
def readTarget (t : BusTarget) (s : State) : Word :=
  match t with
  | .reg r => readReg r s
  | .txWord k => Memory.word s.txbuf (4 * k)
  | .rxWord k => Memory.word s.rxbuf (4 * k)

/-- What a write of `v` to a mapped word does; `none` is a refused write (20_memory.md R63, R68). -/
def writeTarget (t : BusTarget) (v : Word) (s : State) : Option State :=
  match t with
  | .reg r => writeReg r v s
  | .txWord _ => none
  | .rxWord k => some { s with rxbuf := Memory.writeBytes s.rxbuf (4 * k) (bytesLE32 v) }

end Sys2Proof.Machine
end

