-- ==== Sys2Proof/Machine/HostPort.lean ====
section
/-! DEFINITION. The register port: the bus transactions (20_memory.md R60 to R66) and the step of the world outside
the engine, which is the host's or the reset line's (00_scope.md R8). -/

namespace Sys2Proof.Machine

/-- The response to a refused read: `ERROR` with data 0 (20_memory.md R61, R62). -/
def readError : Response := { code := .error, data := some 0 }

/-- The response to a read that returns `v` (20_memory.md R66). -/
def readOkay (v : Word) : Response := { code := .okay, data := some v }

/-- The response to a refused write (20_memory.md R61 to R64). -/
def writeError : Response := { code := .error, data := none }

/-- The response to a write that takes effect (20_memory.md R65, R66). -/
def writeOkay : Response := { code := .okay, data := none }

/-- What a transaction of this size reaches: only 32-bit ones at `a mod 4 = 0` are legal (20_memory.md R61). -/
def transactionTarget (size : AccessSize) (a : Offset) : Option BusTarget :=
  if size = .b32 ∧ a.toNat % 4 = 0 then busTarget a else none

/-- `MemRead`: the response. Reads change nothing (20_memory.md R66). -/
def busRead (size : AccessSize) (a : Offset) (s : State) : Response :=
  match transactionTarget size a with
  | some t => readOkay (readTarget t s)
  | none => readError

/-- The state after a `MemWrite` that takes effect, `none` for one that returns `ERROR` and changes nothing: an
illegal or unmapped access, a read-only target, any write while `STATUS.BUSY = 1` (20_memory.md R61 to R65). -/
def busWrite (size : AccessSize) (a : Offset) (v : Word) (s : State) : Option State :=
  if s.status.busy then none
  else
    match transactionTarget size a with
    | some t => writeTarget t v s
    | none => none

/-- One turn of the world outside the engine, `rest` being what comes after `e`. Each transaction leaves its response
in `resp`. A polling host reads `STATUS` once and stays at its `WAIT` while the read shows `BUSY = 1`
(30_encoding.md R99). -/
def takeEvent (e : Event) (rest : List Event) (s : State) : State :=
  match e with
  | .read size a => { s with events := rest, resp := some (busRead size a s) }
  | .write size a v =>
    match busWrite size a v s with
    | some t => { t with events := rest, resp := some writeOkay }
    | none => { s with events := rest, resp := some writeError }
  | .waitIdle =>
    { s with
      events := if s.status.busy then .waitIdle :: rest else rest
      resp := some (busRead .b32 (regOffset .status) s) }
  | .reset => resetEvent { s with events := rest }

/-- The next turn of the world outside the engine. With nothing left to come, the state stays as it is
(notes/assumptions/11.md). -/
def hostTurn (s : State) : State :=
  match s.events with
  | [] => s
  | e :: rest => takeEvent e rest s

end Sys2Proof.Machine
end

