-- ==== Sys2Proof/Machine/Engine.lean ====
section
/-! DEFINITION. The engine's completion step and the choice of which agent moves (00_scope.md R8). -/

namespace Sys2Proof.Machine

/-- The completion step of a latched command: the meaning of its word (10_state.md R24), or `ILLEGAL_COMMAND`
for a word that is no command (30_encoding.md R86, R88). -/
def completionStep (p : Pending) (s : State) : Host.Outcome State Fault Refusal :=
  match decodeCmd p.word with
  | .ok i => exec i s
  | .error _ => .next (completeIllegal s)

/-- The engine takes its step now: its count of host steps has run out, or no host step is left to come
(00_scope.md R8, notes/assumptions/2.md and 3.md). -/
def engineMoves (p : Pending) (s : State) : Bool := s.events.isEmpty || p.wait == 0

/-- One step of the whole: the completion step of a pending command when the engine moves, else one turn of the
world outside (00_scope.md R8). -/
def stepAgents (s : State) : Host.Outcome State Fault Refusal :=
  match s.pend with
  | some p => if engineMoves p s then completionStep p s else .next (hostTurn (passHostStep s))
  | none => .next (hostTurn s)

end Sys2Proof.Machine
end

