-- ==== Sys2Proof/Machine/Step.lean ====
section
/-! DEFINITION. The one step function, and how a command is placed for it. -/

namespace Sys2Proof.Machine

/-- One step of the block: of the engine, of the host, or of the reset line (00_scope.md R8, R210 of
70_reset_and_hazards.md). -/
def step (s : State) : Host.Outcome State Fault Refusal := stepAgents s

/-- `s` with the command word whose low `nbits` bits are those of `w` latched as the pending command and no host step
left to pass, so that the very next step is its completion. The block fetches nothing (20_memory.md R74): a command
runs when it is latched in `PEND` (notes/assumptions/6.md). -/
def State.withFetchWord (s : State) (nbits w : Nat) : State :=
  latchCommand (BitVec.ofNat 32 (w % 2 ^ nbits)) 0 s

end Sys2Proof.Machine
end

