-- ==== Sys2Proof/Machine/HostProgram.lean ====
section
/-! DEFINITION. Host programs: the transactions of 30_encoding.md R98 and the expansions of R99. -/

namespace Sys2Proof.Machine

/-- `offset(reg)`: where a named register or buffer word stands in the window (30_encoding.md R98). -/
def hostOffset : HostReg → Offset
  | .named r => regOffset r
  | .txWord k => BitVec.ofNat 12 (txBase + 4 * k)
  | .rxWord k => BitVec.ofNat 12 (rxBase + 4 * k)
  | .offset a => a

/-- `WR <reg>, <value>` (30_encoding.md R98). -/
def writeEvent (r : HostReg) (v : Word) : Event := .write .b32 (hostOffset r) v

/-- `RD <reg>` (30_encoding.md R98). -/
def readEvent (r : HostReg) : Event := .read .b32 (hostOffset r)

/-- The command pseudo-instructions: `WR CMD` with the command's word (30_encoding.md R99). -/
def commandEvent (i : Instr) : Event := writeEvent (.named .cmd) (encodeCmd i)

/-- The two `WR` lines of `LDF64` (30_encoding.md R99). -/
def ldf64Events (c : Coord) (x : F64) : List Event :=
  match c with
  | .lat => [writeEvent (.named .latF64Lo) (x.extractLsb' 0 32), writeEvent (.named .latF64Hi) (x.extractLsb' 32 32)]
  | .lon => [writeEvent (.named .lonF64Lo) (x.extractLsb' 0 32), writeEvent (.named .lonF64Hi) (x.extractLsb' 32 32)]

/-- The `WR RXBUF[k]` lines of `LDRX` from bus word `k` on, four bytes a word, bytes past the end taken as 0x00
(30_encoding.md R99; notes/assumptions/21.md). -/
def ldrxEvents : Nat → List Byte → List Event
  | _, [] => []
  | k, [b0] => [writeEvent (.rxWord k) (le32 b0 0 0 0)]
  | k, [b0, b1] => [writeEvent (.rxWord k) (le32 b0 b1 0 0)]
  | k, [b0, b1, b2] => [writeEvent (.rxWord k) (le32 b0 b1 b2 0)]
  | k, b0 :: b1 :: b2 :: b3 :: bs => writeEvent (.rxWord k) (le32 b0 b1 b2 b3) :: ldrxEvents (k + 1) bs

/-- The expansion of one line of a host program (30_encoding.md R98, R99). -/
def expandLine : HostLine → List Event
  | .wr r v => [writeEvent r v]
  | .rd r => [readEvent r]
  | .cmd i => [commandEvent i]
  | .wait => [.waitIdle]
  | .ldf64 c x => ldf64Events c x
  | .ldrx bs => ldrxEvents 0 bs
  | .cmdw i => [commandEvent i, .waitIdle]

/-- A host program as what the host does, line after line (30_encoding.md R98). -/
def expandProgram (ls : List HostLine) : List Event := ls.flatMap expandLine

end Sys2Proof.Machine
end

