-- ==== Sys2Proof/Safety.lean ====
section
/-! DEFINITION. What counts as a safe state and a safe step, in the terms the claims use. -/

namespace Sys2Proof.Machine

/-- A step that answers a next state: neither a fault nor a refusal. -/
def Answers (o : Host.Outcome State Fault Refusal) : Prop := ∃ t, o = .next t

/-- What holds of the block in every state it can be in. -/
structure State.Inv (s : State) : Prop where
  /-- `BUSY = 1` exactly while a command is pending (10_state.md R24, R29). -/
  busy_iff_pending : s.status.busy = s.pend.isSome
  /-- `BUSY = 1` and `DONE = 1` never hold together (10_state.md R29). -/
  not_busy_and_done : (s.status.busy && s.status.done) = false
  /-- The reserved result codes 6 to 15 are never in `ERR` (60_exceptions.md R196). -/
  err_not_reserved : s.status.err.toNat ≤ 5
  /-- `ERR` is 0 after reset and while a command is pending (60_exceptions.md R190). -/
  err_zero_unless_done : s.status.done = false → s.status.err = 0
  /-- The snapshot of a pending command equals the live values (10_state.md R24). -/
  snapshot_is_live : s.operands = s.toInputs
  /-- `TXBUF` is in canonical form. -/
  txbuf_wf : Memory.wf s.txbuf = true
  /-- `TXBUF` has 40 bytes (10_state.md R50). -/
  txbuf_within : Memory.within Config.txBytes s.txbuf = true
  /-- `RXBUF` is in canonical form. -/
  rxbuf_wf : Memory.wf s.rxbuf = true
  /-- `RXBUF` has 268 bytes (10_state.md R51). -/
  rxbuf_within : Memory.within Config.rxBytes s.rxbuf = true
  /-- `ENC_CRC` equals the checksum bytes of `TXBUF` (10_state.md R43). -/
  encCrc_is_sent : s.encCrc = Memory.half s.txbuf 38
  /-- `DEC_LAT_F64` is `DEC_LAT_E7` divided by 1e7 (10_state.md R47). -/
  decLat_in_degrees : s.decLatF64Hi ++ s.decLatF64Lo = degreesOf s.decLatE7
  /-- `DEC_LON_F64` is `DEC_LON_E7` divided by 1e7 (10_state.md R47). -/
  decLon_in_degrees : s.decLonF64Hi ++ s.decLonF64Lo = degreesOf s.decLonE7

/-- No command is pending: the block is idle (60_exceptions.md R207). -/
def State.Idle (s : State) : Prop := s.pend = none ∧ s.status.busy = false

end Sys2Proof.Machine
end

