-- ==== Sys2Proof/Certificates/Slice0/Obligations.lean ====
section
/-! DEFINITION. The statements for the provers, and the few notions they are stated with. Each docstring names the
rules of spec/ a statement formalises. Where a statement speaks of what a command reads, it says `s.operands`: the
snapshot taken at acceptance (10_state.md R24), which `InvariantKeptByEveryStep` says is the live value. With no command
pending, a case in which no step calls `exec`, that is the live values (notes/assumptions/8.md). -/

namespace Sys2Proof.Claims

open Sys2Proof.Machine

/-! ### Notions the statements use -/

/-- `STATUS` of a command that completed with result code `c`: `BUSY=0, DONE=1, ERR=c` (60_exceptions.md R199). -/
def finished (c : BitVec 4) : Status := { busy := false, done := true, err := c }

/-- The state a bus transaction leaves that is answered with `r` and has no effect. -/
def answered (r : Response) (rest : List Event) (s : State) : State := { s with events := rest, resp := some r }

/-- The response to a refused read (20_memory.md R61, R62). -/
def refusedRead : Response := { code := .error, data := some 0 }

/-- The response to a refused write (20_memory.md R61 to R64). -/
def refusedWrite : Response := { code := .error, data := none }

/-- The response to a write that takes effect (20_memory.md R66). -/
def okayWrite : Response := { code := .okay, data := none }

/-- The engine moves: the command `p` is pending, and its count has run out or no event is left (00_scope.md R8,
notes/assumptions/2.md and 3.md). -/
def EngineDue (p : Pending) (s : State) : Prop := s.pend = some p ∧ (s.events = [] ∨ p.wait = 0)

/-- One step of the bit-serial CRC with the reflected generator 0x8408 (40_crc.md R119). -/
def serialStep (x : Half) : Half := if x.getLsbD 0 then (x >>> 1) ^^^ 0x8408 else x >>> 1

/-- The bit-serial update by one byte, least significant bit first (40_crc.md R119). -/
def serialByte (c : Half) (b : Byte) : Half := serialStep^[8] (c ^^^ b.zeroExtend 16)

/-- The bit-serial CRC of a sequence from seed `c` (40_crc.md R119). -/
def serialCrc (c : Half) (bs : List Byte) : Half := bs.foldl serialByte c

/-- The ASCII bytes "123456789" (40_crc.md R119). -/
def checkBytes : List Byte := [0x31, 0x32, 0x33, 0x34, 0x35, 0x36, 0x37, 0x38, 0x39]

/-- `crc_frame(F, n)`: the checksum over bytes 1 to `9 + n`, then the extra byte 104 (30_encoding.md R94). -/
def frameSum (m : Memory) (n : Nat) : Half := crcAcc (crcBytes 0x0000 (Memory.readBytes m 1 (9 + n))) 104

/-- The 40 bytes of `m` are the frame of 30_encoding.md R90 to R94 for the operands `o` and the coordinate wire
values `la` and `lo`. -/
def HoldsFrame (m : Memory) (o : Inputs) (la lo : Word) : Prop :=
  Memory.readBytes m 0 10 = [0xFD, 28, 0, 0, o.seq, o.sysId, Config.compId, 0x21, 0, 0] ∧
    Memory.word m 10 = o.time ∧ Memory.word m 14 = la ∧ Memory.word m 18 = lo ∧
    Memory.word m 22 = o.alt ∧ Memory.word m 26 = o.relAlt ∧
    Memory.half m 30 = o.vx ∧ Memory.half m 32 = o.vy ∧ Memory.half m 34 = o.vz ∧ Memory.half m 36 = o.hdg ∧
    Memory.half m 38 = frameSum m 28

/-- What both encode commands leave when they succeed with coordinates `la` and `lo` (41_encoder.md R136, R137),
apart from `LAT_E7` and `LON_E7`: the frame, its checksum, the sequence number, and nothing else of `TXBUF`. -/
def EmitsFrame (s t : State) (la lo : Word) : Prop :=
  HoldsFrame t.txbuf s.operands la lo ∧ t.encCrc = Memory.half t.txbuf 38 ∧
    (∀ a, 40 ≤ a → Memory.read t.txbuf a = Memory.read s.txbuf a) ∧
    t.seq = (if s.operands.ctrl.getLsbD 2 then s.operands.seq + 1 else s.seq) ∧
    t.status = finished 0

/-- The length byte of the received buffer (30_encoding.md R97). -/
def declared (o : Inputs) : Nat := (Memory.read o.rxbuf 1).toNat

/-- The buffer passes step 1: both length checks (42_decoder.md R161, R162). -/
def LongEnough (o : Inputs) : Prop := 10 ≤ o.rxLen.toNat ∧ 10 + declared o + 2 ≤ o.rxLen.toNat

/-- The message type is `<33,0,0>` (42_decoder.md R163). -/
def SupportedType (o : Inputs) : Prop :=
  Memory.read o.rxbuf 7 = 33 ∧ Memory.read o.rxbuf 8 = 0 ∧ Memory.read o.rxbuf 9 = 0

/-- The length policy accepts the declared length (42_decoder.md R164). -/
def LengthAccepted (o : Inputs) : Prop :=
  (o.ctrl.getLsbD 1 = true → declared o = 28) ∧ (o.ctrl.getLsbD 1 = false → 12 ≤ declared o)

/-- `LE16(RXBUF[10+n], RXBUF[11+n])` (30_encoding.md R97). -/
def receivedSum (o : Inputs) : Half := Memory.half o.rxbuf (10 + declared o)

/-- The rational value of a finite binary64 pattern (00_scope.md R14). -/
def f64Value (x : F64) : ℚ := (if f64Sign x then -1 else 1) * (f64Units x : ℚ) / 2 ^ 1074

/-- `r` is the finite binary64 value nearest to `v`, and of two equally near values the one with the even
significand (00_scope.md R14). -/
def NearestEven (r : F64) (v : ℚ) : Prop :=
  f64IsFinite r = true ∧ ∀ z : F64, f64IsFinite z = true →
    |f64Value r - v| ≤ |f64Value z - v| ∧
      (|f64Value z - v| = |f64Value r - v| → f64Value z = f64Value r ∨ f64Frac r % 2 = 0)

/-- The reset value of each register as it is read (10_state.md R21). -/
def resetValue : RegName → Word
  | .id0 => 0xFD681C00 + Config.compId.zeroExtend 32
  | .id1 => 0x28000021
  | .ctrl => 0x00000003
  | _ => 0x00000000

/-- A row of the register map (10_state.md R21). -/
structure RegisterRow where
  /-- The column "name". -/
  reg : RegName
  /-- The column "offset". -/
  offset : Offset
  /-- The column "access". -/
  access : Access
  /-- The column "bits used", as a mask. -/
  used : Word
deriving DecidableEq, Repr

/-- The register map, row by row (10_state.md R21). -/
def registerTable : List RegisterRow :=
  [⟨.id0, 0x000, .ro, 0xFFFFFFFF⟩, ⟨.id1, 0x004, .ro, 0xFFFFFFFF⟩, ⟨.ctrl, 0x008, .rw, 0x00000007⟩,
    ⟨.status, 0x00C, .ro, 0x000000F3⟩, ⟨.cmd, 0x010, .wo, 0xFFFFFFFF⟩, ⟨.crc, 0x014, .rw, 0x0000FFFF⟩,
    ⟨.seq, 0x018, .rw, 0x000000FF⟩, ⟨.sysId, 0x01C, .rw, 0x000000FF⟩, ⟨.time, 0x020, .rw, 0xFFFFFFFF⟩,
    ⟨.latF64Lo, 0x024, .rw, 0xFFFFFFFF⟩, ⟨.latF64Hi, 0x028, .rw, 0xFFFFFFFF⟩,
    ⟨.lonF64Lo, 0x02C, .rw, 0xFFFFFFFF⟩, ⟨.lonF64Hi, 0x030, .rw, 0xFFFFFFFF⟩,
    ⟨.latE7, 0x034, .rw, 0xFFFFFFFF⟩, ⟨.lonE7, 0x038, .rw, 0xFFFFFFFF⟩, ⟨.alt, 0x03C, .rw, 0xFFFFFFFF⟩,
    ⟨.relAlt, 0x040, .rw, 0xFFFFFFFF⟩, ⟨.vx, 0x044, .rw, 0x0000FFFF⟩, ⟨.vy, 0x048, .rw, 0x0000FFFF⟩,
    ⟨.vz, 0x04C, .rw, 0x0000FFFF⟩, ⟨.hdg, 0x050, .rw, 0x0000FFFF⟩, ⟨.encCrc, 0x054, .ro, 0x0000FFFF⟩,
    ⟨.rxLen, 0x058, .rw, 0x0000FFFF⟩, ⟨.decSysId, 0x05C, .ro, 0x000000FF⟩, ⟨.decLatE7, 0x060, .ro, 0xFFFFFFFF⟩,
    ⟨.decLonE7, 0x064, .ro, 0xFFFFFFFF⟩, ⟨.decLatF64Lo, 0x068, .ro, 0xFFFFFFFF⟩,
    ⟨.decLatF64Hi, 0x06C, .ro, 0xFFFFFFFF⟩, ⟨.decLonF64Lo, 0x070, .ro, 0xFFFFFFFF⟩,
    ⟨.decLonF64Hi, 0x074, .ro, 0xFFFFFFFF⟩, ⟨.decCrcCalc, 0x078, .ro, 0x0000FFFF⟩,
    ⟨.decCrcRx, 0x07C, .ro, 0x0000FFFF⟩]

/-- The number each register reads as, from the field of the state that holds it (10_state.md R21 to R23, R29 to
R49): `STATUS` is `BUSY + 2 * DONE + 16 * ERR`, and `CMD` holds nothing. -/
def registerValue (s : State) : RegName → Nat
  | .id0 => 0xFD681C00 + Config.compId.toNat
  | .id1 => 0x28000021
  | .ctrl => s.ctrl.toNat
  | .status => s.status.busy.toNat + 2 * s.status.done.toNat + 16 * s.status.err.toNat
  | .cmd => 0
  | .crc => s.crc.toNat
  | .seq => s.seq.toNat
  | .sysId => s.sysId.toNat
  | .time => s.time.toNat
  | .latF64Lo => s.latF64Lo.toNat
  | .latF64Hi => s.latF64Hi.toNat
  | .lonF64Lo => s.lonF64Lo.toNat
  | .lonF64Hi => s.lonF64Hi.toNat
  | .latE7 => s.latE7.toNat
  | .lonE7 => s.lonE7.toNat
  | .alt => s.alt.toNat
  | .relAlt => s.relAlt.toNat
  | .vx => s.vx.toNat
  | .vy => s.vy.toNat
  | .vz => s.vz.toNat
  | .hdg => s.hdg.toNat
  | .encCrc => s.encCrc.toNat
  | .rxLen => s.rxLen.toNat
  | .decSysId => s.decSysId.toNat
  | .decLatE7 => s.decLatE7.toNat
  | .decLonE7 => s.decLonE7.toNat
  | .decLatF64Lo => s.decLatF64Lo.toNat
  | .decLatF64Hi => s.decLatF64Hi.toNat
  | .decLonF64Lo => s.decLonF64Lo.toNat
  | .decLonF64Hi => s.decLonF64Hi.toNat
  | .decCrcCalc => s.decCrcCalc.toNat
  | .decCrcRx => s.decCrcRx.toNat

/-- The registers and the buffer that hold results (10_state.md R43, R45 to R50). -/
def SameResults (s t : State) : Prop :=
  t.txbuf = s.txbuf ∧ t.encCrc = s.encCrc ∧ t.decSysId = s.decSysId ∧
    t.decLatE7 = s.decLatE7 ∧ t.decLonE7 = s.decLonE7 ∧
    t.decLatF64Lo = s.decLatF64Lo ∧ t.decLatF64Hi = s.decLatF64Hi ∧
    t.decLonF64Lo = s.decLonF64Lo ∧ t.decLonF64Hi = s.decLonF64Hi ∧
    t.decCrcCalc = s.decCrcCalc ∧ t.decCrcRx = s.decCrcRx

/-- `s` with `CRC = c`, in the register and in the snapshot of a pending command. -/
def withCrc (c : Half) (s : State) : State :=
  { s with crc := c, pend := s.pend.map fun p => { p with inputs := { p.inputs with crc := c } } }

end Sys2Proof.Claims

open Sys2Proof Sys2Proof.Machine Sys2Proof.Claims

/-! ### The command word -/

/-- Decoding the word of any command gives that command (30_encoding.md R85, R86). -/
def Obligations.DecodeOfEncodeIsIdentity : Prop :=
  ∀ i : Instr, i.wellFormed = true → decodeCmd (encodeCmd i) = .ok i

/-- A word decodes to a command only if it is the command's own word: no two words mean one command
(30_encoding.md R85, R86). -/
def Obligations.EachCommandHasOneWord : Prop :=
  ∀ (w : Word) (i : Instr), decodeCmd w = .ok i → w = encodeCmd i

/-- 30_encoding.md R85: the decoder follows the opcode map; at most one row matches a word, and a word that matches
no row is illegal. -/
def Obligations.DecoderFollowsOpcodeMap : Prop :=
  opcodeRows.map (fun r => (r.mnemonic, r.pattern, r.mask)) =
      [("NOP", 0x00000000, 0xFFFFFFFF), ("CRC_ACC", 0x00000001, 0xFFFF00FF), ("CRC_EXTEND", 0x00000002, 0xFFFFFFFF),
       ("CRC_CLEAR", 0x00000003, 0xFFFFFFFF), ("ENCODE", 0x00000004, 0xFFFFFFFF),
       ("ENCODE_RAW", 0x00000014, 0xFFFFFFFF), ("DECODE", 0x00000005, 0xFFFFFFFF)] ∧
    (∀ w, ∀ r ∈ opcodeRows, ∀ r' ∈ opcodeRows, w &&& r.mask = r.pattern → w &&& r'.mask = r'.pattern → r = r') ∧
    (∀ w i, decodeCmd w = .ok i → ∃ r ∈ opcodeRows, w &&& r.mask = r.pattern ∧ r.mnemonic = i.mnemonic) ∧
    (∀ w, (∃ e, decodeCmd w = .error e) ↔ ∀ r ∈ opcodeRows, w &&& r.mask ≠ r.pattern)

/-- 262 words are legal, 256 of them `CRC_ACC` words and one for each other command (the spec's own count, 30_encoding.md R87). -/
def Obligations.LegalWordsAreCounted : Prop :=
  (∃ l : List Word, l.Nodup ∧ l.length = 262 ∧ ∀ w, w ∈ l ↔ ∃ i, decodeCmd w = .ok i) ∧
    (∃ l : List Word, l.Nodup ∧ l.length = 256 ∧ ∀ w, w ∈ l ↔ ∃ b, decodeCmd w = .ok (.crcAcc b)) ∧
    ∀ i : Instr, (∀ b, i ≠ .crcAcc b) → ∃! w, decodeCmd w = .ok i

/-- 30_encoding.md R88: which words are illegal, that such a word is accepted like any command, and that it completes
with `ILLEGAL_COMMAND` and no other effect (`StepRunsThePendingCommand` says that a step is this completion). -/
def Obligations.IllegalWordsCompleteWithoutEffect : Prop :=
  (∀ w : Word, (∃ e, decodeCmd w = .error e) ↔
      (6 ≤ (w.extractLsb' 0 4).toNat ∨ (w.getLsbD 4 = true ∧ w.extractLsb' 0 4 ≠ 4) ∨
        (w.extractLsb' 8 8 ≠ 0 ∧ w.extractLsb' 0 4 ≠ 1) ∨ w.extractLsb' 5 3 ≠ 0 ∨ w.extractLsb' 16 16 ≠ 0)) ∧
    (∀ (s : State) (w : Word), s.pend = none → s.status.busy = false →
      busWrite .b32 0x010 w s = some (acceptCommand w s)) ∧
    ∀ (s : State) (p : Pending) (e : IllegalWord), decodeCmd p.word = .error e →
      completionStep p s = .next { s with status := finished 5, pend := none }

/-- Some words of 95_test_vectors.md 2.3, bit by bit. -/
def Obligations.SampleWordsDecode : Prop :=
  decodeCmd 0b00000000000000000000000000000000 = .ok .nop ∧
    decodeCmd 0b00000000000000001111111100000001 = .ok (.crcAcc 0xFF) ∧
    decodeCmd 0b00000000000000000000000000010100 = .ok .encodeRaw ∧
    decodeCmd 0b00000000000000000000000000000101 = .ok .decode ∧
    decodeCmd 0b00000000000000000000000000010101 = .error .strayRaw ∧
    decodeCmd 0b00000000000000010000000000000001 = .error .reservedBits

/-! ### The checksum function and its commands -/

/-- `checksumOf` is the bit-serial reflected CRC-16 with generator 0x8408, initial value 0 and no final
XOR, with check value 0x2189 (the spec's own cross-check, 40_crc.md R119). -/
def Obligations.ChecksumIsBitSerialCrc : Prop :=
  (∀ (c : Half) (bs : List Byte), crcBytes c bs = serialCrc c bs) ∧
    (∀ bs : List Byte, checksumOf bs = serialCrc 0x0000 bs) ∧ checksumOf checkBytes = 0x2189

/-- Linearity, the append law, bijectivity, and that changing exactly one covered byte always changes the checksum of a
frame (the spec's own inference, 40_crc.md R118). -/
def Obligations.ChecksumLaws : Prop :=
  (∀ c1 c2 b1 b2, crcAcc (c1 ^^^ c2) (b1 ^^^ b2) = crcAcc c1 b1 ^^^ crcAcc c2 b2) ∧
    (∀ c b, crcAcc c b = crcAcc (c ^^^ b.zeroExtend 16) 0) ∧
    (∀ s bs cs, crcBytes s (bs ++ cs) = crcBytes (crcBytes s bs) cs) ∧
    (∀ b, Function.Bijective fun c => crcAcc c b) ∧
    ∀ (m m' : Memory) (n i : Nat), 1 ≤ i → i ≤ 9 + n → Memory.read m i ≠ Memory.read m' i →
      (∀ j, j ≠ i → Memory.read m j = Memory.read m' j) → frameSum m n ≠ frameSum m' n

/-- 40_crc.md R113: `NOP` changes no state other than `STATUS` (and the latch it was held in). -/
def Obligations.NopOnlySetsStatus : Prop :=
  encodeCmd .nop = 0x00000000 ∧
    ∀ s : State, ∃ t, exec .nop s = .next t ∧ t.status.toWord = 0x00000002 ∧
      t = { s with status := finished 0, pend := none }

/-- 40_crc.md R114: `CRC_CLEAR` sets `CRC` to the zero seed, and is idempotent. -/
def Obligations.CrcClearZeroesCrc : Prop :=
  encodeCmd .crcClear = 0x00000003 ∧
    ∀ s : State, ∃ t, exec .crcClear s = .next t ∧ t.crc = 0x0000 ∧
      t = { s with crc := 0x0000, status := finished 0, pend := none } ∧ exec .crcClear t = .next t

/-- 40_crc.md R115: `CRC_ACC b` folds its byte into `CRC`; its corner cases and its example. -/
def Obligations.CrcAccFoldsItsByte : Prop :=
  (∀ b : Byte, encodeCmd (.crcAcc b) = (b.zeroExtend 32 <<< 8) + 1) ∧
    (∀ (s : State) (b : Byte), exec (.crcAcc b) s =
      .next { s with crc := crcAcc s.operands.crc b, status := finished 0, pend := none }) ∧
    (∀ c : Half, crcAcc c (c.extractLsb' 0 8) = c >>> 8) ∧
    crcAcc 0x0000 0x00 = 0x0000 ∧ crcAcc 0xFFFF 0xFF = 0x00FF ∧ crcAcc 0x0000 0x01 = 0x1189

/-- `CRC_EXTEND` folds the byte 104 into `CRC`; its examples (40_crc.md R116). That it equals `CRC_ACC 0x68` in every
state is the spec's own inference there, from R112 and R115. -/
def Obligations.CrcExtendFoldsExtraByte : Prop :=
  encodeCmd .crcExtend = 0x00000002 ∧
    (∀ s : State, exec .crcExtend s =
      .next { s with crc := crcAcc s.operands.crc 104, status := finished 0, pend := none }) ∧
    (∀ s : State, exec .crcExtend s = exec (.crcAcc 0x68) s) ∧
    crcAcc 0x0000 104 = 0xEF4E ∧ crcAcc 0x2189 104 = 0xF6A6

/-- The frame commands neither read nor write `CRC` (40_crc.md R117). -/
def Obligations.FrameCommandsIgnoreCrc : Prop :=
  ∀ i : Instr, i = .encode ∨ i = .encodeRaw ∨ i = .decode → ∀ (s : State) (c : Half),
    ∃ t, exec i s = .next t ∧ t.crc = s.crc ∧ exec i (withCrc c s) = .next { t with crc := c }

/-! ### Coordinates -/

/-- An integer below `2 ^ 53` in magnitude converts exactly (00_scope.md R14), and 1e7 is exactly representable
(41_encoder.md R130). -/
def Obligations.IntegersConvertExactly : Prop :=
  (∀ k : ℤ, |k| < 2 ^ 53 → f64IsFinite (f64OfInt k) = true ∧ f64Value (f64OfInt k) = k) ∧
    f64IsFinite coordScale = true ∧ f64Value coordScale = 10 ^ 7

/-- The binary64 product is correctly rounded, to nearest with ties to even, and is an infinity exactly from the
halfway point above the greatest finite value on (00_scope.md R14 with IEEE 754; the model's reading of it,
notes/assumptions/12.md). -/
def Obligations.ProductIsCorrectlyRounded : Prop :=
  ∀ x y : F64, f64IsFinite x = true → f64IsFinite y = true →
    f64IsNan (mulRne x y) = false ∧ f64Sign (mulRne x y) = (f64Sign x ^^ f64Sign y) ∧
      (f64IsFinite (mulRne x y) = true → NearestEven (mulRne x y) (f64Value x * f64Value y)) ∧
      (f64IsInf (mulRne x y) = true ↔ (2 ^ 1024 - 2 ^ 970 : ℚ) ≤ |f64Value x * f64Value y|)

/-- The decoded degrees are the binary64 value nearest to `lat / 10^7`, ties to even, and never a NaN or an infinity
(42_decoder.md R168, where nearest with ties to even is the spec's own inference from 00_scope.md R14); its examples. The
binary64 details are the model's reading of IEEE 754 (notes/assumptions/12.md), and the pattern of the integer 0 is its
choice (notes/assumptions/13.md). -/
def Obligations.DegreesAreNearestBinary64 : Prop :=
  (∀ e7 : Word, degreesOf e7 = divRne (f64OfInt e7.toInt) coordScale ∧
      NearestEven (degreesOf e7) ((e7.toInt : ℚ) / 10 ^ 7)) ∧
    degreesOf (BitVec.ofInt 32 400000000) = 0x4044000000000000 ∧
    degreesOf (BitVec.ofInt 32 (-740000000)) = 0xC052800000000000 ∧
    degreesOf (BitVec.ofInt 32 515084000) = 0x4049C113404EA4A9

/-- `scale` truncates the rounded product toward zero (41_encoder.md R130, R132). -/
def Obligations.ScaleTruncatesTowardZero : Prop :=
  (∀ (x : F64) (k : Word), scale x = some k →
      |(k.toInt : ℚ)| ≤ |f64Value (mulRne x coordScale)| ∧
        |f64Value (mulRne x coordScale)| < |(k.toInt : ℚ)| + 1 ∧
        0 ≤ (k.toInt : ℚ) * f64Value (mulRne x coordScale)) ∧
    scale 0x4000000530C168EB = some (BitVec.ofInt 32 20000098) ∧
    scale 0xC000000530C168EB = some (BitVec.ofInt 32 (-20000098))

/-- When `scale` gives an `i32`, that every geographic coordinate scales, and the boundary
values (the spec's own inference, 41_encoder.md R131; overflow of the product as notes/assumptions/12.md has it). -/
def Obligations.ScaleRange : Prop :=
  (∀ x : F64, (∃ k, scale x = some k) ↔
      f64IsFinite x = true ∧ f64IsFinite (mulRne x coordScale) = true ∧
        -2147483649 < f64Value (mulRne x coordScale) ∧ f64Value (mulRne x coordScale) < 2147483648) ∧
    (∀ x : F64, f64IsFinite x = true → |f64Value x| ≤ 180 → ∃ k, scale x = some k ∧ |k.toInt| ≤ 1800000000) ∧
    (∀ x : F64, f64IsFinite x = true → |f64Value x| < 1 / 10 ^ 7 → |f64Value (mulRne x coordScale)| < 1 →
      scale x = some 0) ∧
    scale 0x406AD7F29A86FF63 = some (BitVec.ofInt 32 2147483647) ∧ scale 0x406AD7F29ABCAF48 = none ∧
    scale 0xC06AD7F29ABCAF48 = some (BitVec.ofInt 32 (-2147483648)) ∧ scale 0xC06AD7F29AF25F2E = none ∧
    scale 0x8000000000000000 = some 0

/-- A coordinate that scales is off its wire value by less than `1e-7 * (1 + 2^-22)` degrees (the spec's own
inference, 42_decoder.md R173). -/
def Obligations.ScaledCoordinateErrorBound : Prop :=
  ∀ (x : F64) (k : Word), scale x = some k →
    |f64Value x - (k.toInt : ℚ) / 10 ^ 7| < (1 + 1 / 2 ^ 22) / 10 ^ 7

/-! ### The encoder -/

/-- 41_encoder.md R138: what `ENCODE` does when both coordinates scale, and that it changes nothing but `STATUS` when
one does not; its corner cases and its example. -/
def Obligations.EncodeFollowsItsRule : Prop :=
  encodeCmd .encode = 0x00000004 ∧
    (∀ (s : State) (la lo : Word), Memory.wf s.txbuf = true →
      scale s.operands.latF64 = some la → scale s.operands.lonF64 = some lo →
      ∃ t, exec .encode s = .next t ∧ EmitsFrame s t la lo ∧ t.latE7 = la ∧ t.lonE7 = lo ∧
        t = { s with
              txbuf := t.txbuf, encCrc := t.encCrc, seq := t.seq, latE7 := t.latE7, lonE7 := t.lonE7
              status := t.status, pend := none }) ∧
    (∀ s : State, scale s.operands.latF64 = none ∨ scale s.operands.lonF64 = none →
      exec .encode s = .next { s with status := finished 4, pend := none }) ∧
    (∀ o : Inputs, o.latF64 = o.latF64Hi ++ o.latF64Lo ∧ o.lonF64 = o.lonF64Hi ++ o.lonF64Lo) ∧
    (∀ x : F64, f64IsNan x = true ∨ f64IsInf x = true → scale x = none) ∧
    scale 0x8000000000000000 = some 0 ∧
    frameBytes 1 Inputs.reset 0 0 =
      [0xFD, 0x1C, 0x00, 0x00, 0x00, 0x00, 0x01, 0x21, 0x00, 0x00] ++ List.replicate 28 0x00 ++ [0xDC, 0x7D] ∧
    frameChecksum 1 Inputs.reset 0 0 = 0x7DDC

/-- 41_encoder.md R139: what `ENCODE_RAW` does, for every pair of wire values; its corner case and its example. -/
def Obligations.EncodeRawFollowsItsRule : Prop :=
  encodeCmd .encodeRaw = 0x00000014 ∧
    (∀ s : State, Memory.wf s.txbuf = true →
      ∃ t, exec .encodeRaw s = .next t ∧ EmitsFrame s t s.operands.latE7 s.operands.lonE7 ∧
        t = { s with
              txbuf := t.txbuf, encCrc := t.encCrc, seq := t.seq, status := t.status, pend := none }) ∧
    bytesLE32 0x80000000 = [0x00, 0x00, 0x00, 0x80] ∧ bytesLE32 400000000 = [0x00, 0x84, 0xD7, 0x17] ∧
    frameChecksum 1 { Inputs.reset with sysId := 2 } (BitVec.ofInt 32 400000000) (BitVec.ofInt 32 (-740000000)) = 0x2B4B

/-- `ENCODE` completes with `OK` for every latitude in [-90, 90] and longitude in [-180, 180] (the spec's own inference,
41_encoder.md R140). -/
def Obligations.GeographicCoordinatesEncode : Prop :=
  ∀ s : State, f64IsFinite s.operands.latF64 = true → |f64Value s.operands.latF64| ≤ 90 →
    f64IsFinite s.operands.lonF64 = true → |f64Value s.operands.lonF64| ≤ 180 →
    ∃ t, exec .encode s = .next t ∧ t.status = finished 0

/-- The frame depends only on the operand registers of `ENCODE` and on `COMP_ID` (the spec's own inference,
41_encoder.md R141). -/
def Obligations.FrameDependsOnOperandsOnly : Prop :=
  ∀ s s' : State, Memory.wf s.txbuf = true → Memory.wf s'.txbuf = true →
    s.operands.seq = s'.operands.seq → s.operands.sysId = s'.operands.sysId →
    s.operands.time = s'.operands.time →
    s.operands.latF64Lo = s'.operands.latF64Lo → s.operands.latF64Hi = s'.operands.latF64Hi →
    s.operands.lonF64Lo = s'.operands.lonF64Lo → s.operands.lonF64Hi = s'.operands.lonF64Hi →
    s.operands.alt = s'.operands.alt → s.operands.relAlt = s'.operands.relAlt →
    s.operands.vx = s'.operands.vx → s.operands.vy = s'.operands.vy → s.operands.vz = s'.operands.vz →
    s.operands.hdg = s'.operands.hdg →
    ∃ t t', exec .encode s = .next t ∧ exec .encode s' = .next t' ∧ t.status = t'.status ∧
      (t.status.err = 0 → t.encCrc = t'.encCrc ∧ ∀ a, a < 40 → Memory.read t.txbuf a = Memory.read t'.txbuf a)

/-! ### The decoder -/

/-- 42_decoder.md R161 and R162: a buffer shorter than the header, or than its declared length asks for, is
`MALFORMED_FRAME`, before any other check, and nothing but `STATUS` changes. -/
def Obligations.ShortBuffersAreMalformed : Prop :=
  ∀ s : State,
    (s.operands.rxLen.toNat < 10 → exec .decode s = .next { s with status := finished 1, pend := none }) ∧
      (10 ≤ s.operands.rxLen.toNat → s.operands.rxLen.toNat < 10 + declared s.operands + 2 →
        exec .decode s = .next { s with status := finished 1, pend := none })

/-- 42_decoder.md R163: a long enough buffer of another message type is `UNSUPPORTED_MESSAGE_TYPE`, whatever its
length byte says, and nothing but `STATUS` changes. -/
def Obligations.OtherTypesAreUnsupported : Prop :=
  ∀ s : State, LongEnough s.operands → ¬ SupportedType s.operands →
    exec .decode s = .next { s with status := finished 2, pend := none }

/-- 42_decoder.md R164: the length policy, checked after the message type. -/
def Obligations.LengthPolicyDecides : Prop :=
  ∀ s : State, LongEnough s.operands → SupportedType s.operands →
    (¬ LengthAccepted s.operands → exec .decode s = .next { s with status := finished 1, pend := none }) ∧
      (LengthAccepted s.operands →
        ∃ t, exec .decode s = .next t ∧ (t.status = finished 0 ∨ t.status = finished 3))

/-- 42_decoder.md R165 to R167 and R169: on a frame that passes every length and type check, the two checksums are
recorded; with verification on and unequal checksums the command ends with `CHECKSUM_MISMATCH` and writes no more; else
it ends with `OK` and writes the sample. -/
def Obligations.DecodeRecoversTheSample : Prop :=
  ∀ s : State, LongEnough s.operands → SupportedType s.operands → LengthAccepted s.operands →
    (s.operands.ctrl.getLsbD 0 = true → frameSum s.operands.rxbuf (declared s.operands) ≠ receivedSum s.operands →
      exec .decode s = .next { s with
        decCrcCalc := frameSum s.operands.rxbuf (declared s.operands), decCrcRx := receivedSum s.operands
        status := finished 3, pend := none }) ∧
    (s.operands.ctrl.getLsbD 0 = false ∨ frameSum s.operands.rxbuf (declared s.operands) = receivedSum s.operands →
      ∃ t, exec .decode s = .next t ∧
        t.decSysId = Memory.read s.operands.rxbuf 5 ∧
        t.decLatE7 = Memory.word s.operands.rxbuf 14 ∧ t.decLonE7 = Memory.word s.operands.rxbuf 18 ∧
        t.decLatF64Hi ++ t.decLatF64Lo = degreesOf (Memory.word s.operands.rxbuf 14) ∧
        t.decLonF64Hi ++ t.decLonF64Lo = degreesOf (Memory.word s.operands.rxbuf 18) ∧
        t = { s with
              decCrcCalc := frameSum s.operands.rxbuf (declared s.operands), decCrcRx := receivedSum s.operands
              decSysId := t.decSysId, decLatE7 := t.decLatE7, decLonE7 := t.decLonE7
              decLatF64Lo := t.decLatF64Lo, decLatF64Hi := t.decLatF64Hi
              decLonF64Lo := t.decLonF64Lo, decLonF64Hi := t.decLonF64Hi
              status := finished 0, pend := none })

/-- The outcome of `DECODE` depends only on the length, on bytes 1 to `min(L, 12 + n) - 1` of the buffer and on two
bits of `CTRL`; byte 0 and trailing bytes never matter (the spec's own inference, 42_decoder.md R170 to R172). -/
def Obligations.DecodeReadsOnlyTheFrame : Prop :=
  ∀ s s' : State,
    (s.operands.rxLen = s'.operands.rxLen ∨
      (LongEnough s.operands ∧ 10 + declared s.operands + 2 ≤ s'.operands.rxLen.toNat)) →
    (∀ i, 1 ≤ i → i < min s.operands.rxLen.toNat (12 + declared s.operands) →
      Memory.read s.operands.rxbuf i = Memory.read s'.operands.rxbuf i) →
    s.operands.ctrl.getLsbD 0 = s'.operands.ctrl.getLsbD 0 →
    s.operands.ctrl.getLsbD 1 = s'.operands.ctrl.getLsbD 1 →
    SameResults s s' →
    ∃ t t', exec .decode s = .next t ∧ exec .decode s' = .next t' ∧ t.status = t'.status ∧ SameResults t t'

/-- Decoding an encoded frame gives the sample back, under any `CTRL` setting and whatever else the receive buffer
holds (the spec's own inference, 42_decoder.md R173; the error bound is `ScaledCoordinateErrorBound`). `DECODE` is run
here on a state with no command pending, where it reads the live registers by the model's choice
(notes/assumptions/8.md). -/
def Obligations.DecodeOfEncodedFrameRoundTrips : Prop :=
  ∀ (s t : State) (la lo : Word) (m : Memory) (c : BitVec 3), Memory.wf s.txbuf = true →
    scale s.operands.latF64 = some la → scale s.operands.lonF64 = some lo → exec .encode s = .next t →
    (∀ i, i < 40 → Memory.read m i = Memory.read t.txbuf i) →
    ∃ u, exec .decode { t with rxbuf := m, rxLen := 40, ctrl := c } = .next u ∧ u.status = finished 0 ∧
      u.decSysId = s.operands.sysId ∧ u.decLatE7 = la ∧ u.decLonE7 = lo ∧
      u.decCrcCalc = t.encCrc ∧ u.decCrcRx = t.encCrc

/-! ### Errors and completion -/

/-- 60_exceptions.md R199: an error is the command's completion with a non-zero code, and it is precise: nothing
changes but `STATUS`, the latch, and for `CHECKSUM_MISMATCH` the two recorded checksums. -/
def Obligations.ErrorsArePrecise : Prop :=
  (∀ (i : Instr) (s t : State), exec i s = .next t → t.status.err ≠ 0 →
      (t = { s with status := finished t.status.err, pend := none } ∨
        (t.status.err = 3 ∧ t = { s with
          decCrcCalc := t.decCrcCalc, decCrcRx := t.decCrcRx, status := finished 3, pend := none }))) ∧
    ∀ s : State, completeIllegal s = { s with status := finished 5, pend := none }

/-- Which command can complete with which code, and that codes 6 to 15 are never produced (60_exceptions.md R190 to
R196, R198). -/
def Obligations.CodesByCommand : Prop :=
  ∀ (i : Instr) (s : State), ∃ t, exec i s = .next t ∧ t.pend = none ∧ t.status = finished t.status.err ∧
    (t.status.err = 0 ∨ (i = .encode ∧ t.status.err = 4) ∨
      (i = .decode ∧ (t.status.err = 1 ∨ t.status.err = 2 ∨
        (t.status.err = 3 ∧ s.operands.ctrl.getLsbD 0 = true ∧ t.decCrcCalc ≠ t.decCrcRx))))

/-- No state is stuck: every step answers a next state (93_implementation_defined.md section 1). -/
def Obligations.EveryStepAnswers : Prop := ∀ s : State, Answers (step s)

/-! ### The steps of the two agents -/

/-- What every step is. The engine's step is the meaning of the pending command word (00_scope.md R8, 10_state.md
R24), or `ILLEGAL_COMMAND` for a word that is no command (30_encoding.md R88, 60_exceptions.md R195); else the world
outside takes its next event, a reset among them (70_reset_and_hazards.md R210). When the engine moves is the free
`LATENCY` (notes/assumptions/2.md, 3.md), the events are the model's list (4.md), and with nothing to do a step leaves the
state as it is (11.md). -/
def Obligations.StepRunsThePendingCommand : Prop :=
  (∀ (s : State) (p : Pending) (i : Instr), EngineDue p s → decodeCmd p.word = .ok i → step s = exec i s) ∧
    (∀ (s : State) (p : Pending) (e : IllegalWord), EngineDue p s → decodeCmd p.word = .error e →
      step s = .next { s with status := finished 5, pend := none }) ∧
    (∀ (s : State) (p : Pending) (e : Event) (rest : List Event), s.pend = some p → p.wait ≠ 0 →
      s.events = e :: rest →
      step s = .next (takeEvent e rest { s with pend := some { p with wait := p.wait - 1 } })) ∧
    (∀ (s : State) (e : Event) (rest : List Event), s.pend = none → s.events = e :: rest →
      step s = .next (takeEvent e rest s)) ∧
    ∀ s : State, s.pend = none → s.events = [] → step s = .next s

/-- 20_memory.md R65: a write to `CMD` while idle returns `OKAY`, latches the word and a snapshot of what the command
reads, and sets `STATUS = 1`; a word that is no command is accepted too and then completes with `ILLEGAL_COMMAND`. -/
def Obligations.CmdWriteLatchesTheCommand : Prop :=
  (∀ (s : State) (w : Word) (rest : List Event), s.pend = none → s.status.busy = false →
      ∃ t p, takeEvent (.write .b32 0x010 w) rest s = t ∧ t.pend = some p ∧ p.word = w ∧ p.inputs = s.toInputs ∧
        t.status.toWord = 0x00000001 ∧ t.resp = some { code := .okay, data := none } ∧
        t = { s with
              pend := t.pend, status := { busy := true, done := false, err := 0 }
              events := rest, resp := t.resp, accepted := t.accepted }) ∧
    ∀ (s : State) (p : Pending) (e : IllegalWord), decodeCmd p.word = .error e →
      completionStep p s = .next { s with status := finished 5, pend := none }

/-- 20_memory.md R64: while `STATUS.BUSY = 1` every write returns `ERROR` and has no effect; reads are answered from
the committed values, and `STATUS` reads `BUSY=1, DONE=0, ERR=0`. -/
def Obligations.WritesWhileBusyAreRefused : Prop :=
  ∀ (s : State) (rest : List Event), s.Inv → s.status.busy = true →
    (∀ size a v, takeEvent (.write size a v) rest s = answered refusedWrite rest s) ∧
      (∀ r, takeEvent (.read .b32 (regOffset r)) rest s =
        answered { code := .okay, data := some (readReg r s) } rest s) ∧
      (∀ k, k < 10 → takeEvent (.read .b32 (BitVec.ofNat 12 (0x100 + 4 * k))) rest s =
        answered { code := .okay, data := some (Memory.word s.txbuf (4 * k)) } rest s) ∧
      (∀ k, k < 67 → takeEvent (.read .b32 (BitVec.ofNat 12 (0x200 + 4 * k))) rest s =
        answered { code := .okay, data := some (Memory.word s.rxbuf (4 * k)) } rest s) ∧
      readReg .status s = 0x00000001

/-- 20_memory.md R61: a transaction of another size or at an unaligned offset returns `ERROR`, data 0, and has no
effect. -/
def Obligations.IllegalTransactionsAreRefused : Prop :=
  ∀ (s : State) (size : AccessSize) (a : Offset) (v : Word) (rest : List Event), size ≠ .b32 ∨ a.toNat % 4 ≠ 0 →
    takeEvent (.read size a) rest s = answered refusedRead rest s ∧
      takeEvent (.write size a v) rest s = answered refusedWrite rest s

/-- 20_memory.md R62: a transaction at an unmapped offset returns `ERROR`, data 0, and has no effect. -/
def Obligations.UnmappedOffsetsAreRefused : Prop :=
  ∀ (s : State) (a : Offset) (v : Word) (rest : List Event),
    (0x080 ≤ a.toNat ∧ a.toNat ≤ 0x0FF) ∨ (0x128 ≤ a.toNat ∧ a.toNat ≤ 0x1FF) ∨ 0x30C ≤ a.toNat →
    takeEvent (.read .b32 a) rest s = answered refusedRead rest s ∧
      takeEvent (.write .b32 a v) rest s = answered refusedWrite rest s

/-- 20_memory.md R63: a write to a read-only register or to a `TXBUF` word returns `ERROR` and has no effect. -/
def Obligations.ReadOnlyWritesAreRefused : Prop :=
  ∀ (s : State) (a : Offset) (v : Word) (rest : List Event),
    a ∈ ([0x000, 0x004, 0x00C, 0x054, 0x05C, 0x060, 0x064, 0x068, 0x06C, 0x070, 0x074, 0x078, 0x07C] : List Offset) ∨
      (0x100 ≤ a.toNat ∧ a.toNat ≤ 0x127) →
    takeEvent (.write .b32 a v) rest s = answered refusedWrite rest s

/-- The window answers a read with the register, or the buffer word, that stands at the offset (10_state.md R21, R50,
R51; 20_memory.md R66), and a register reads as the field of the state that holds it, `STATUS` as
`BUSY + 2 * DONE + 16 * ERR` (10_state.md R21, R29). -/
def Obligations.ReadsFollowTheMap : Prop :=
  allRegs.map regOffset = (List.range 32).map (fun k => BitVec.ofNat 12 (4 * k)) ∧
    registerTable.map (·.reg) = allRegs ∧ (∀ r : RegName, r ∈ allRegs) ∧
    (∀ row ∈ registerTable, regOffset row.reg = row.offset) ∧
    (∀ (s : State) (r : RegName), (readReg r s).toNat = registerValue s r) ∧
    (∀ (s : State) (r : RegName), busRead .b32 (regOffset r) s = { code := .okay, data := some (readReg r s) }) ∧
    (∀ (s : State) (k : Nat), k < 10 →
      busRead .b32 (BitVec.ofNat 12 (0x100 + 4 * k)) s =
        { code := .okay, data := some (Memory.word s.txbuf (4 * k)) }) ∧
    ∀ (s : State) (k : Nat), k < 67 →
      busRead .b32 (BitVec.ofNat 12 (0x200 + 4 * k)) s =
        { code := .okay, data := some (Memory.word s.rxbuf (4 * k)) }

/-- 10_state.md R28: a write to a read-write register stores only the bits used, with no error and no other effect, and
every reserved bit reads 0; the access and the bits used of all 32 registers are those of the table of R21. -/
def Obligations.RegistersStoreOnlyBitsUsed : Prop :=
  (∀ (s : State) (r : RegName) (v : Word), regAccess r = .rw → s.status.busy = false →
      ∃ t, busWrite .b32 (regOffset r) v s = some t ∧ readReg r t = v &&& regBitsUsed r ∧
        (∀ r', r' ≠ r → readReg r' t = readReg r' s) ∧ t.rxbuf = s.rxbuf ∧
        t = { s with toInputs := t.toInputs }) ∧
    (∀ (s : State) (r : RegName), readReg r s &&& ~~~ regBitsUsed r = 0) ∧
    regBitsUsed .ctrl = 0x00000007 ∧ regBitsUsed .status = 0x000000F3 ∧
    (∀ r : RegName, ∃ row ∈ registerTable, row.reg = r) ∧
    ∀ row ∈ registerTable, regAccess row.reg = row.access ∧ regBitsUsed row.reg = row.used

/-- A write to an `RXBUF` word sets its four bytes, least significant first, and no other byte, and reads back
(10_state.md R51, 20_memory.md R68). -/
def Obligations.RxWordsAreLittleEndian : Prop :=
  ∀ (s : State) (k : Nat) (v : Word), k < 67 → s.status.busy = false → Memory.wf s.rxbuf = true →
    ∃ t, busWrite .b32 (BitVec.ofNat 12 (0x200 + 4 * k)) v s = some t ∧ t = { s with rxbuf := t.rxbuf } ∧
      (∀ j, j < 4 → Memory.read t.rxbuf (4 * k + j) = v.extractLsb' (8 * j) 8) ∧
      (∀ a, a < 4 * k ∨ 4 * k + 4 ≤ a → Memory.read t.rxbuf a = Memory.read s.rxbuf a) ∧
      busRead .b32 (BitVec.ofNat 12 (0x200 + 4 * k)) t = { code := .okay, data := some v }

/-- `ID0` and `ID1` hold the constants of the build in every state (10_state.md R22, R23). -/
def Obligations.IdRegistersAreConstant : Prop :=
  ∀ s : State, readReg .id0 s = 0xFD681C00 + Config.compId.zeroExtend 32 ∧ readReg .id1 s = 0x28000021 ∧
    readReg .cmd s = 0x00000000

/-- 70_reset_and_hazards.md R210: a reset, pending command or not, gives every register and both buffers their reset
values in one update and discards the command. -/
def Obligations.ResetTakesEffectAtOnce : Prop :=
  ∀ (s : State) (rest : List Event), (∀ r, readReg r (takeEvent .reset rest s) = resetValue r) ∧
    (takeEvent .reset rest s).pend = none ∧
    ∀ a, Memory.read (takeEvent .reset rest s).txbuf a = 0x00 ∧ Memory.read (takeEvent .reset rest s).rxbuf a = 0x00

/-- The state after reset (the spec's own summary, 70_reset_and_hazards.md R211, of the table of 10_state.md R21). -/
def Obligations.ResetStateHasTheResetValues : Prop :=
  (∀ r, readReg r State.reset = resetValue r) ∧ State.reset.pend = none ∧
    (∀ a, Memory.read State.reset.txbuf a = 0x00 ∧ Memory.read State.reset.rxbuf a = 0x00)

/-- A step that neither completes a command nor resets leaves every result register and `TXBUF` as they were
(20_memory.md R70, 70_reset_and_hazards.md R216). -/
def Obligations.ResultsChangeOnlyAtCompletion : Prop :=
  ∀ s t : State, step s = .next t → (t.pend ≠ none ∨ s.pend = none) → s.events.head? ≠ some .reset →
    SameResults s t

/-- A pending command completes, or is reset, after no more host steps than its latency (00_scope.md R8,
70_reset_and_hazards.md R223; that the latency is a count held in the latch is the model's, notes/assumptions/2.md). -/
def Obligations.PendingCommandsEnd : Prop :=
  ∀ (s : State) (p : Pending), s.pend = some p →
    ∃ k t, k ≤ p.wait + 1 ∧ core.run k s = .next t ∧ t.pend = none

/-- `WAIT` ends: a polling host goes on after finitely many steps, with `BUSY = 0` read (30_encoding.md R99). That `WAIT` is one
event that polls is the model's (notes/assumptions/19.md). -/
def Obligations.WaitFinishes : Prop :=
  ∀ (s : State) (rest : List Event), s.Inv → s.events = .waitIdle :: rest →
    ∃ k t, core.run k s = .next t ∧ t.events = rest ∧ t.pend = none ∧
      t.resp = some { code := .okay, data := some t.status.toWord } ∧ t.status.busy = false

/-- `LDRX` puts its bytes into `RXBUF`, padded with 0x00 to a whole word, and changes nothing else of the block
(30_encoding.md R99; the bound on its length is the model's, notes/assumptions/21.md). -/
def Obligations.LdrxLoadsTheBytes : Prop :=
  ∀ (s : State) (bs : List Byte) (rest : List Event), (HostLine.ldrx bs).wellFormed = true →
    s.pend = none → s.status.busy = false → Memory.wf s.rxbuf = true →
    s.events = expandLine (.ldrx bs) ++ rest →
    ∃ t, core.run ((bs.length + 3) / 4) s = .next t ∧
      (∀ i, i < 4 * ((bs.length + 3) / 4) → Memory.read t.rxbuf i = (bs[i]?).getD 0x00) ∧
      (∀ i, 4 * ((bs.length + 3) / 4) ≤ i → Memory.read t.rxbuf i = Memory.read s.rxbuf i) ∧
      t = { s with rxbuf := t.rxbuf, events := rest, resp := some { code := .okay, data := none } }

/-- `CMDW c` has exactly the effect of the command, whatever the latency: the results do not depend on timing
(30_encoding.md R99, 70_reset_and_hazards.md R223). The effect is what `exec` answers on the idle state, where it reads the
live registers by the model's choice (notes/assumptions/8.md); `WAIT` is an event that polls (19.md). -/
def Obligations.CmdwHasTheCommandsEffect : Prop :=
  ∀ (s : State) (i : Instr) (rest : List Event), s.pend = none → s.status.busy = false →
    s.events = expandLine (.cmdw i) ++ rest →
    ∃ k u, exec i s = .next u ∧
      core.run k s = .next { u with
        events := rest
        resp := some { code := .okay, data := some u.status.toWord }
        accepted := s.accepted + 1 }

/-! ### The invariant -/

/-- Every step keeps the invariant of the block: `BUSY` exactly while a command is pending, never with `DONE`; legal
result codes; the snapshot of a pending command equal to the live values; both buffers canonical and inside their
bounds; `ENC_CRC` equal to the sent checksum; the decoded degrees equal to the decoded wire values over 1e7
(10_state.md R24, R29, R43, R47, R50, R51; 60_exceptions.md R190, R196). -/
def Obligations.InvariantKeptByEveryStep : Prop :=
  ∀ s t : State, s.Inv → step s = .next t → t.Inv

/-- The state after reset has the invariant (70_reset_and_hazards.md R211). -/
def Obligations.ResetHasTheInvariant : Prop := State.reset.Inv

/-! ### The turns of the world outside, and byte order -/

/-- What each turn of the world outside does, in terms of the bus: a read and a write give their response and, for a
write that takes effect, the new state (20_memory.md R60, R66), `WAIT` reads `STATUS` once (30_encoding.md R99), a reset
gives the reset state (70_reset_and_hazards.md R210). The events, the kept response, what a reset leaves of them, and
`WAIT` as a polling event are the model's (notes/assumptions/4.md, 5.md, 9.md, 19.md). -/
def Obligations.TurnsAreBusTransactions : Prop :=
  (∀ (s : State) (size : AccessSize) (a : Offset) (rest : List Event),
      takeEvent (.read size a) rest s = answered (busRead size a s) rest s) ∧
    (∀ (s t : State) (size : AccessSize) (a : Offset) (v : Word) (rest : List Event), busWrite size a v s = some t →
      takeEvent (.write size a v) rest s = answered okayWrite rest t) ∧
    (∀ (s : State) (size : AccessSize) (a : Offset) (v : Word) (rest : List Event), busWrite size a v s = none →
      takeEvent (.write size a v) rest s = answered refusedWrite rest s) ∧
    (∀ (s : State) (rest : List Event), takeEvent .waitIdle rest s =
      answered { code := .okay, data := some (readReg .status s) }
        (if s.status.busy then .waitIdle :: rest else rest) s) ∧
    ∀ (s : State) (rest : List Event),
      takeEvent .reset rest s = { State.reset with events := rest, accepted := s.accepted }

/-- A half word and a word of a buffer are its bytes, least significant first (00_scope.md R11, 20_memory.md R68). -/
def Obligations.BuffersAreLittleEndian : Prop :=
  ∀ (m : Memory) (i : Nat),
    (Memory.half m i).toNat = (Memory.read m i).toNat + 256 * (Memory.read m (i + 1)).toNat ∧
      (Memory.word m i).toNat =
        (Memory.read m i).toNat + 256 * (Memory.read m (i + 1)).toNat + 65536 * (Memory.read m (i + 2)).toNat +
          16777216 * (Memory.read m (i + 3)).toNat
end

