-- ==== Sys2Proof/Laws/State.lean ====
section
/-! SUPPORT. One lemma per field for each update of the state, true by `rfl`, so that no proof unfolds a record
update. The fields of `Inputs` are reached through the one lemma about `toInputs`. -/

namespace Sys2Proof.Machine

/-! ### `complete`: only `STATUS` and `PEND` change (00_scope.md R13) -/

@[simp] theorem complete_toInputs (c : ResultCode) (s : State) :
    (complete c s).toInputs = s.toInputs := rfl

@[simp] theorem complete_status (c : ResultCode) (s : State) :
    (complete c s).status = statusCompleted c := rfl

@[simp] theorem complete_encCrc (c : ResultCode) (s : State) :
    (complete c s).encCrc = s.encCrc := rfl

@[simp] theorem complete_decSysId (c : ResultCode) (s : State) :
    (complete c s).decSysId = s.decSysId := rfl

@[simp] theorem complete_decLatE7 (c : ResultCode) (s : State) :
    (complete c s).decLatE7 = s.decLatE7 := rfl

@[simp] theorem complete_decLonE7 (c : ResultCode) (s : State) :
    (complete c s).decLonE7 = s.decLonE7 := rfl

@[simp] theorem complete_decLatF64Lo (c : ResultCode) (s : State) :
    (complete c s).decLatF64Lo = s.decLatF64Lo := rfl

@[simp] theorem complete_decLatF64Hi (c : ResultCode) (s : State) :
    (complete c s).decLatF64Hi = s.decLatF64Hi := rfl

@[simp] theorem complete_decLonF64Lo (c : ResultCode) (s : State) :
    (complete c s).decLonF64Lo = s.decLonF64Lo := rfl

@[simp] theorem complete_decLonF64Hi (c : ResultCode) (s : State) :
    (complete c s).decLonF64Hi = s.decLonF64Hi := rfl

@[simp] theorem complete_decCrcCalc (c : ResultCode) (s : State) :
    (complete c s).decCrcCalc = s.decCrcCalc := rfl

@[simp] theorem complete_decCrcRx (c : ResultCode) (s : State) :
    (complete c s).decCrcRx = s.decCrcRx := rfl

@[simp] theorem complete_txbuf (c : ResultCode) (s : State) :
    (complete c s).txbuf = s.txbuf := rfl

@[simp] theorem complete_pend (c : ResultCode) (s : State) :
    (complete c s).pend = none := rfl

@[simp] theorem complete_events (c : ResultCode) (s : State) :
    (complete c s).events = s.events := rfl

@[simp] theorem complete_resp (c : ResultCode) (s : State) :
    (complete c s).resp = s.resp := rfl

@[simp] theorem complete_accepted (c : ResultCode) (s : State) :
    (complete c s).accepted = s.accepted := rfl

/-! ### `latchCommand`: only `STATUS` and `PEND` change (20_memory.md R65) -/

@[simp] theorem latchCommand_toInputs (w : Word) (n : Nat) (s : State) :
    (latchCommand w n s).toInputs = s.toInputs := rfl

@[simp] theorem latchCommand_status (w : Word) (n : Nat) (s : State) :
    (latchCommand w n s).status = statusAccepted := rfl

@[simp] theorem latchCommand_encCrc (w : Word) (n : Nat) (s : State) :
    (latchCommand w n s).encCrc = s.encCrc := rfl

@[simp] theorem latchCommand_decSysId (w : Word) (n : Nat) (s : State) :
    (latchCommand w n s).decSysId = s.decSysId := rfl

@[simp] theorem latchCommand_decLatE7 (w : Word) (n : Nat) (s : State) :
    (latchCommand w n s).decLatE7 = s.decLatE7 := rfl

@[simp] theorem latchCommand_decLonE7 (w : Word) (n : Nat) (s : State) :
    (latchCommand w n s).decLonE7 = s.decLonE7 := rfl

@[simp] theorem latchCommand_decLatF64Lo (w : Word) (n : Nat) (s : State) :
    (latchCommand w n s).decLatF64Lo = s.decLatF64Lo := rfl

@[simp] theorem latchCommand_decLatF64Hi (w : Word) (n : Nat) (s : State) :
    (latchCommand w n s).decLatF64Hi = s.decLatF64Hi := rfl

@[simp] theorem latchCommand_decLonF64Lo (w : Word) (n : Nat) (s : State) :
    (latchCommand w n s).decLonF64Lo = s.decLonF64Lo := rfl

@[simp] theorem latchCommand_decLonF64Hi (w : Word) (n : Nat) (s : State) :
    (latchCommand w n s).decLonF64Hi = s.decLonF64Hi := rfl

@[simp] theorem latchCommand_decCrcCalc (w : Word) (n : Nat) (s : State) :
    (latchCommand w n s).decCrcCalc = s.decCrcCalc := rfl

@[simp] theorem latchCommand_decCrcRx (w : Word) (n : Nat) (s : State) :
    (latchCommand w n s).decCrcRx = s.decCrcRx := rfl

@[simp] theorem latchCommand_txbuf (w : Word) (n : Nat) (s : State) :
    (latchCommand w n s).txbuf = s.txbuf := rfl

@[simp] theorem latchCommand_pend (w : Word) (n : Nat) (s : State) :
    (latchCommand w n s).pend = some { word := w, inputs := s.toInputs, wait := n } := rfl

@[simp] theorem latchCommand_events (w : Word) (n : Nat) (s : State) :
    (latchCommand w n s).events = s.events := rfl

@[simp] theorem latchCommand_resp (w : Word) (n : Nat) (s : State) :
    (latchCommand w n s).resp = s.resp := rfl

@[simp] theorem latchCommand_accepted (w : Word) (n : Nat) (s : State) :
    (latchCommand w n s).accepted = s.accepted := rfl

/-! ### `acceptCommand`: `STATUS`, `PEND` and the count of accepted commands change (20_memory.md R65) -/

@[simp] theorem acceptCommand_toInputs (w : Word) (s : State) :
    (acceptCommand w s).toInputs = s.toInputs := rfl

@[simp] theorem acceptCommand_status (w : Word) (s : State) :
    (acceptCommand w s).status = statusAccepted := rfl

@[simp] theorem acceptCommand_encCrc (w : Word) (s : State) :
    (acceptCommand w s).encCrc = s.encCrc := rfl

@[simp] theorem acceptCommand_decSysId (w : Word) (s : State) :
    (acceptCommand w s).decSysId = s.decSysId := rfl

@[simp] theorem acceptCommand_decLatE7 (w : Word) (s : State) :
    (acceptCommand w s).decLatE7 = s.decLatE7 := rfl

@[simp] theorem acceptCommand_decLonE7 (w : Word) (s : State) :
    (acceptCommand w s).decLonE7 = s.decLonE7 := rfl

@[simp] theorem acceptCommand_decLatF64Lo (w : Word) (s : State) :
    (acceptCommand w s).decLatF64Lo = s.decLatF64Lo := rfl

@[simp] theorem acceptCommand_decLatF64Hi (w : Word) (s : State) :
    (acceptCommand w s).decLatF64Hi = s.decLatF64Hi := rfl

@[simp] theorem acceptCommand_decLonF64Lo (w : Word) (s : State) :
    (acceptCommand w s).decLonF64Lo = s.decLonF64Lo := rfl

@[simp] theorem acceptCommand_decLonF64Hi (w : Word) (s : State) :
    (acceptCommand w s).decLonF64Hi = s.decLonF64Hi := rfl

@[simp] theorem acceptCommand_decCrcCalc (w : Word) (s : State) :
    (acceptCommand w s).decCrcCalc = s.decCrcCalc := rfl

@[simp] theorem acceptCommand_decCrcRx (w : Word) (s : State) :
    (acceptCommand w s).decCrcRx = s.decCrcRx := rfl

@[simp] theorem acceptCommand_txbuf (w : Word) (s : State) :
    (acceptCommand w s).txbuf = s.txbuf := rfl

@[simp] theorem acceptCommand_pend (w : Word) (s : State) :
    (acceptCommand w s).pend = some { word := w, inputs := s.toInputs, wait := Config.latency s.accepted w } := rfl

@[simp] theorem acceptCommand_events (w : Word) (s : State) :
    (acceptCommand w s).events = s.events := rfl

@[simp] theorem acceptCommand_resp (w : Word) (s : State) :
    (acceptCommand w s).resp = s.resp := rfl

@[simp] theorem acceptCommand_accepted (w : Word) (s : State) :
    (acceptCommand w s).accepted = s.accepted + 1 := rfl

/-! ### `passHostStep`: only the count of host steps in `PEND` changes (00_scope.md R8) -/

@[simp] theorem passHostStep_toInputs (s : State) :
    (passHostStep s).toInputs = s.toInputs := rfl

@[simp] theorem passHostStep_status (s : State) :
    (passHostStep s).status = s.status := rfl

@[simp] theorem passHostStep_encCrc (s : State) :
    (passHostStep s).encCrc = s.encCrc := rfl

@[simp] theorem passHostStep_decSysId (s : State) :
    (passHostStep s).decSysId = s.decSysId := rfl

@[simp] theorem passHostStep_decLatE7 (s : State) :
    (passHostStep s).decLatE7 = s.decLatE7 := rfl

@[simp] theorem passHostStep_decLonE7 (s : State) :
    (passHostStep s).decLonE7 = s.decLonE7 := rfl

@[simp] theorem passHostStep_decLatF64Lo (s : State) :
    (passHostStep s).decLatF64Lo = s.decLatF64Lo := rfl

@[simp] theorem passHostStep_decLatF64Hi (s : State) :
    (passHostStep s).decLatF64Hi = s.decLatF64Hi := rfl

@[simp] theorem passHostStep_decLonF64Lo (s : State) :
    (passHostStep s).decLonF64Lo = s.decLonF64Lo := rfl

@[simp] theorem passHostStep_decLonF64Hi (s : State) :
    (passHostStep s).decLonF64Hi = s.decLonF64Hi := rfl

@[simp] theorem passHostStep_decCrcCalc (s : State) :
    (passHostStep s).decCrcCalc = s.decCrcCalc := rfl

@[simp] theorem passHostStep_decCrcRx (s : State) :
    (passHostStep s).decCrcRx = s.decCrcRx := rfl

@[simp] theorem passHostStep_txbuf (s : State) :
    (passHostStep s).txbuf = s.txbuf := rfl

@[simp] theorem passHostStep_pend (s : State) :
    (passHostStep s).pend = s.pend.map fun p => { p with wait := p.wait - 1 } := rfl

@[simp] theorem passHostStep_events (s : State) :
    (passHostStep s).events = s.events := rfl

@[simp] theorem passHostStep_resp (s : State) :
    (passHostStep s).resp = s.resp := rfl

@[simp] theorem passHostStep_accepted (s : State) :
    (passHostStep s).accepted = s.accepted := rfl

/-! ### `resetEvent`: the reset values, but for the world outside (70_reset_and_hazards.md R210) -/

@[simp] theorem resetEvent_toInputs (s : State) :
    (resetEvent s).toInputs = Inputs.reset := rfl

@[simp] theorem resetEvent_status (s : State) :
    (resetEvent s).status = State.reset.status := rfl

@[simp] theorem resetEvent_encCrc (s : State) :
    (resetEvent s).encCrc = State.reset.encCrc := rfl

@[simp] theorem resetEvent_decSysId (s : State) :
    (resetEvent s).decSysId = State.reset.decSysId := rfl

@[simp] theorem resetEvent_decLatE7 (s : State) :
    (resetEvent s).decLatE7 = State.reset.decLatE7 := rfl

@[simp] theorem resetEvent_decLonE7 (s : State) :
    (resetEvent s).decLonE7 = State.reset.decLonE7 := rfl

@[simp] theorem resetEvent_decLatF64Lo (s : State) :
    (resetEvent s).decLatF64Lo = State.reset.decLatF64Lo := rfl

@[simp] theorem resetEvent_decLatF64Hi (s : State) :
    (resetEvent s).decLatF64Hi = State.reset.decLatF64Hi := rfl

@[simp] theorem resetEvent_decLonF64Lo (s : State) :
    (resetEvent s).decLonF64Lo = State.reset.decLonF64Lo := rfl

@[simp] theorem resetEvent_decLonF64Hi (s : State) :
    (resetEvent s).decLonF64Hi = State.reset.decLonF64Hi := rfl

@[simp] theorem resetEvent_decCrcCalc (s : State) :
    (resetEvent s).decCrcCalc = State.reset.decCrcCalc := rfl

@[simp] theorem resetEvent_decCrcRx (s : State) :
    (resetEvent s).decCrcRx = State.reset.decCrcRx := rfl

@[simp] theorem resetEvent_txbuf (s : State) :
    (resetEvent s).txbuf = State.reset.txbuf := rfl

@[simp] theorem resetEvent_pend (s : State) :
    (resetEvent s).pend = State.reset.pend := rfl

@[simp] theorem resetEvent_events (s : State) :
    (resetEvent s).events = s.events := rfl

@[simp] theorem resetEvent_resp (s : State) :
    (resetEvent s).resp = State.reset.resp := rfl

@[simp] theorem resetEvent_accepted (s : State) :
    (resetEvent s).accepted = s.accepted := rfl

/-! ### `emitFrame`: `TXBUF`, `ENC_CRC` and `SEQ` change (41_encoder.md R136, R137) -/

@[simp] theorem emitFrame_toInputs (la lo : Word) (s : State) :
    (emitFrame la lo s).toInputs =
      { s.toInputs with seq := if s.operands.seqAuto then s.operands.seq + 1 else s.seq } := rfl

@[simp] theorem emitFrame_status (la lo : Word) (s : State) :
    (emitFrame la lo s).status = s.status := rfl

@[simp] theorem emitFrame_encCrc (la lo : Word) (s : State) :
    (emitFrame la lo s).encCrc = frameChecksum Config.compId s.operands la lo := by
  simp only [emitFrame]

@[simp] theorem emitFrame_decSysId (la lo : Word) (s : State) :
    (emitFrame la lo s).decSysId = s.decSysId := rfl

@[simp] theorem emitFrame_decLatE7 (la lo : Word) (s : State) :
    (emitFrame la lo s).decLatE7 = s.decLatE7 := rfl

@[simp] theorem emitFrame_decLonE7 (la lo : Word) (s : State) :
    (emitFrame la lo s).decLonE7 = s.decLonE7 := rfl

@[simp] theorem emitFrame_decLatF64Lo (la lo : Word) (s : State) :
    (emitFrame la lo s).decLatF64Lo = s.decLatF64Lo := rfl

@[simp] theorem emitFrame_decLatF64Hi (la lo : Word) (s : State) :
    (emitFrame la lo s).decLatF64Hi = s.decLatF64Hi := rfl

@[simp] theorem emitFrame_decLonF64Lo (la lo : Word) (s : State) :
    (emitFrame la lo s).decLonF64Lo = s.decLonF64Lo := rfl

@[simp] theorem emitFrame_decLonF64Hi (la lo : Word) (s : State) :
    (emitFrame la lo s).decLonF64Hi = s.decLonF64Hi := rfl

@[simp] theorem emitFrame_decCrcCalc (la lo : Word) (s : State) :
    (emitFrame la lo s).decCrcCalc = s.decCrcCalc := rfl

@[simp] theorem emitFrame_decCrcRx (la lo : Word) (s : State) :
    (emitFrame la lo s).decCrcRx = s.decCrcRx := rfl

@[simp] theorem emitFrame_txbuf (la lo : Word) (s : State) :
    (emitFrame la lo s).txbuf =
      Memory.writeBytes s.txbuf 0 (frameBytes Config.compId s.operands la lo) := by
  simp only [emitFrame]

@[simp] theorem emitFrame_pend (la lo : Word) (s : State) :
    (emitFrame la lo s).pend = s.pend := rfl

@[simp] theorem emitFrame_events (la lo : Word) (s : State) :
    (emitFrame la lo s).events = s.events := rfl

@[simp] theorem emitFrame_resp (la lo : Word) (s : State) :
    (emitFrame la lo s).resp = s.resp := rfl

@[simp] theorem emitFrame_accepted (la lo : Word) (s : State) :
    (emitFrame la lo s).accepted = s.accepted := rfl

/-! ### `recordChecksums`: `DEC_CRC_CALC` and `DEC_CRC_RX` change (42_decoder.md R165) -/

@[simp] theorem recordChecksums_toInputs (computed received : Half) (s : State) :
    (recordChecksums computed received s).toInputs = s.toInputs := rfl

@[simp] theorem recordChecksums_status (computed received : Half) (s : State) :
    (recordChecksums computed received s).status = s.status := rfl

@[simp] theorem recordChecksums_encCrc (computed received : Half) (s : State) :
    (recordChecksums computed received s).encCrc = s.encCrc := rfl

@[simp] theorem recordChecksums_decSysId (computed received : Half) (s : State) :
    (recordChecksums computed received s).decSysId = s.decSysId := rfl

@[simp] theorem recordChecksums_decLatE7 (computed received : Half) (s : State) :
    (recordChecksums computed received s).decLatE7 = s.decLatE7 := rfl

@[simp] theorem recordChecksums_decLonE7 (computed received : Half) (s : State) :
    (recordChecksums computed received s).decLonE7 = s.decLonE7 := rfl

@[simp] theorem recordChecksums_decLatF64Lo (computed received : Half) (s : State) :
    (recordChecksums computed received s).decLatF64Lo = s.decLatF64Lo := rfl

@[simp] theorem recordChecksums_decLatF64Hi (computed received : Half) (s : State) :
    (recordChecksums computed received s).decLatF64Hi = s.decLatF64Hi := rfl

@[simp] theorem recordChecksums_decLonF64Lo (computed received : Half) (s : State) :
    (recordChecksums computed received s).decLonF64Lo = s.decLonF64Lo := rfl

@[simp] theorem recordChecksums_decLonF64Hi (computed received : Half) (s : State) :
    (recordChecksums computed received s).decLonF64Hi = s.decLonF64Hi := rfl

@[simp] theorem recordChecksums_decCrcCalc (computed received : Half) (s : State) :
    (recordChecksums computed received s).decCrcCalc = computed := rfl

@[simp] theorem recordChecksums_decCrcRx (computed received : Half) (s : State) :
    (recordChecksums computed received s).decCrcRx = received := rfl

@[simp] theorem recordChecksums_txbuf (computed received : Half) (s : State) :
    (recordChecksums computed received s).txbuf = s.txbuf := rfl

@[simp] theorem recordChecksums_pend (computed received : Half) (s : State) :
    (recordChecksums computed received s).pend = s.pend := rfl

@[simp] theorem recordChecksums_events (computed received : Half) (s : State) :
    (recordChecksums computed received s).events = s.events := rfl

@[simp] theorem recordChecksums_resp (computed received : Half) (s : State) :
    (recordChecksums computed received s).resp = s.resp := rfl

@[simp] theorem recordChecksums_accepted (computed received : Half) (s : State) :
    (recordChecksums computed received s).accepted = s.accepted := rfl

/-! ### `writeSample`: the sample registers change (42_decoder.md R169) -/

@[simp] theorem writeSample_toInputs (sysId : Byte) (lat lon : Word) (s : State) :
    (writeSample sysId lat lon s).toInputs = s.toInputs := rfl

@[simp] theorem writeSample_status (sysId : Byte) (lat lon : Word) (s : State) :
    (writeSample sysId lat lon s).status = s.status := rfl

@[simp] theorem writeSample_encCrc (sysId : Byte) (lat lon : Word) (s : State) :
    (writeSample sysId lat lon s).encCrc = s.encCrc := rfl

@[simp] theorem writeSample_decSysId (sysId : Byte) (lat lon : Word) (s : State) :
    (writeSample sysId lat lon s).decSysId = sysId := rfl

@[simp] theorem writeSample_decLatE7 (sysId : Byte) (lat lon : Word) (s : State) :
    (writeSample sysId lat lon s).decLatE7 = lat := rfl

@[simp] theorem writeSample_decLonE7 (sysId : Byte) (lat lon : Word) (s : State) :
    (writeSample sysId lat lon s).decLonE7 = lon := rfl

@[simp] theorem writeSample_decLatF64Lo (sysId : Byte) (lat lon : Word) (s : State) :
    (writeSample sysId lat lon s).decLatF64Lo = (degreesOf lat).extractLsb' 0 32 := rfl

@[simp] theorem writeSample_decLatF64Hi (sysId : Byte) (lat lon : Word) (s : State) :
    (writeSample sysId lat lon s).decLatF64Hi = (degreesOf lat).extractLsb' 32 32 := rfl

@[simp] theorem writeSample_decLonF64Lo (sysId : Byte) (lat lon : Word) (s : State) :
    (writeSample sysId lat lon s).decLonF64Lo = (degreesOf lon).extractLsb' 0 32 := rfl

@[simp] theorem writeSample_decLonF64Hi (sysId : Byte) (lat lon : Word) (s : State) :
    (writeSample sysId lat lon s).decLonF64Hi = (degreesOf lon).extractLsb' 32 32 := rfl

@[simp] theorem writeSample_decCrcCalc (sysId : Byte) (lat lon : Word) (s : State) :
    (writeSample sysId lat lon s).decCrcCalc = s.decCrcCalc := rfl

@[simp] theorem writeSample_decCrcRx (sysId : Byte) (lat lon : Word) (s : State) :
    (writeSample sysId lat lon s).decCrcRx = s.decCrcRx := rfl

@[simp] theorem writeSample_txbuf (sysId : Byte) (lat lon : Word) (s : State) :
    (writeSample sysId lat lon s).txbuf = s.txbuf := rfl

@[simp] theorem writeSample_pend (sysId : Byte) (lat lon : Word) (s : State) :
    (writeSample sysId lat lon s).pend = s.pend := rfl

@[simp] theorem writeSample_events (sysId : Byte) (lat lon : Word) (s : State) :
    (writeSample sysId lat lon s).events = s.events := rfl

@[simp] theorem writeSample_resp (sysId : Byte) (lat lon : Word) (s : State) :
    (writeSample sysId lat lon s).resp = s.resp := rfl

@[simp] theorem writeSample_accepted (sysId : Byte) (lat lon : Word) (s : State) :
    (writeSample sysId lat lon s).accepted = s.accepted := rfl

/-! ### The operands a command reads (10_state.md R24) -/

theorem operands_of_pending {s : State} {p : Pending} (h : s.pend = some p) : s.operands = p.inputs := by
  simp [State.operands, h]

theorem operands_of_idle {s : State} (h : s.pend = none) : s.operands = s.toInputs := by
  simp [State.operands, h]

@[simp] theorem complete_operands (c : ResultCode) (s : State) : (complete c s).operands = s.toInputs := rfl

@[simp] theorem latchCommand_operands (w : Word) (n : Nat) (s : State) :
    (latchCommand w n s).operands = s.toInputs := rfl

@[simp] theorem acceptCommand_operands (w : Word) (s : State) :
    (acceptCommand w s).operands = s.toInputs := rfl

@[simp] theorem resetEvent_operands (s : State) : (resetEvent s).operands = Inputs.reset := rfl

@[simp] theorem passHostStep_operands (s : State) : (passHostStep s).operands = s.operands := by
  cases h : s.pend <;> simp [State.operands, h]

/-! ### The fields of `STATUS` -/

@[simp] theorem statusAccepted_busy : statusAccepted.busy = true := rfl
@[simp] theorem statusAccepted_done : statusAccepted.done = false := rfl
@[simp] theorem statusAccepted_err : statusAccepted.err = 0 := rfl
@[simp] theorem statusCompleted_busy (c : ResultCode) : (statusCompleted c).busy = false := rfl
@[simp] theorem statusCompleted_done (c : ResultCode) : (statusCompleted c).done = true := rfl
@[simp] theorem statusCompleted_err (c : ResultCode) : (statusCompleted c).err = c.bits := rfl

theorem ResultCode.bits_le (c : ResultCode) : c.bits.toNat ≤ 5 := by
  cases c <;> decide

end Sys2Proof.Machine
end

