-- ==== Sys2Proof/Laws/Encoding.lean ====
section
/-! SUPPORT. Laws of the encodings: the command word as a number, the offsets the register map gives, and `STATUS` as a
bus word. -/

namespace Sys2Proof.Machine

/-- A command word as a number, from its fields (30_encoding.md R80). -/
theorem wordOfFields_toNat (f : CmdFields) :
    (wordOfFields f).toNat =
      f.op.toNat + 16 * f.raw.toNat + 32 * f.res0.toNat + 256 * f.arg.toNat + 65536 * f.res1.toNat := by
  have ho := f.op.isLt
  have hr := Bool.toNat_lt f.raw
  have h0 := f.res0.isLt
  have ha := f.arg.isLt
  have hb : (BitVec.ofBool f.raw).toNat = f.raw.toNat := BitVec.toNat_ofBool _
  rw [wordOfFields, BitVec.toNat_append, ← Nat.shiftLeft_add_eq_or_of_lt ho, BitVec.toNat_append,
    ← Nat.shiftLeft_add_eq_or_of_lt (BitVec.isLt _), hb, BitVec.toNat_append, ← Nat.shiftLeft_add_eq_or_of_lt h0,
    BitVec.toNat_append, ← Nat.shiftLeft_add_eq_or_of_lt ha]
  simp only [Nat.shiftLeft_eq]
  omega

/-- The fields of a command word as numbers (30_encoding.md R80). -/
theorem cmdFields_toNat (w : Word) :
    (cmdFields w).op.toNat = w.toNat % 16 ∧ (cmdFields w).raw.toNat = w.toNat / 16 % 2 ∧
      (cmdFields w).res0.toNat = w.toNat / 32 % 8 ∧ (cmdFields w).arg.toNat = w.toNat / 256 % 256 ∧
      (cmdFields w).res1.toNat = w.toNat / 65536 := by
  have := w.isLt
  refine ⟨?_, ?_, ?_, ?_, ?_⟩
  · simp [cmdFields]
  · simp only [cmdFields, BitVec.getLsbD, Nat.testBit_eq_decide_div_mod_eq]
    rw [show (2 : Nat) ^ 4 = 16 from rfl]
    rcases Nat.mod_two_eq_zero_or_one (w.toNat / 16) with h | h <;> rw [h] <;> rfl
  · simp [cmdFields, Nat.shiftRight_eq_div_pow]
  · simp [cmdFields, Nat.shiftRight_eq_div_pow]
  · simp only [cmdFields, BitVec.extractLsb'_toNat, Nat.shiftRight_eq_div_pow]
    omega

/-- Laying the fields of a word out again gives the word. -/
theorem wordOfFields_cmdFields (w : Word) : wordOfFields (cmdFields w) = w := by
  apply BitVec.eq_of_toNat_eq
  obtain ⟨h1, h2, h3, h4, h5⟩ := cmdFields_toNat w
  rw [wordOfFields_toNat, h1, h2, h3, h4, h5]
  omega

/-- A register's own offset reaches it (10_state.md R21). -/
@[simp] theorem transactionTarget_reg (r : RegName) : transactionTarget .b32 (regOffset r) = some (.reg r) := by
  cases r <;> decide +kernel

/-- The offset of a `TXBUF` word reaches it (10_state.md R50). -/
theorem transactionTarget_tx : ∀ k < 10, transactionTarget .b32 (BitVec.ofNat 12 (0x100 + 4 * k)) = some (.txWord k) := by
  decide +kernel

/-- The offset of an `RXBUF` word reaches it (10_state.md R51). -/
theorem transactionTarget_rx : ∀ k < 67, transactionTarget .b32 (BitVec.ofNat 12 (0x200 + 4 * k)) = some (.rxWord k) := by
  decide +kernel

/-- `STATUS` as a number (10_state.md R29). -/
theorem status_toNat (st : Status) :
    st.toWord.toNat = st.busy.toNat + 2 * st.done.toNat + 16 * st.err.toNat := by
  rcases st with ⟨b, d, e⟩
  revert e
  cases b <;> cases d <;> decide +kernel

/-- The two forms of `ID0` agree for every build (10_state.md R22). -/
theorem id0Word_eq (c : Byte) : id0Word c = 0xFD681C00 + c.zeroExtend 32 := by
  revert c
  decide +kernel

end Sys2Proof.Machine
end

