-- ==== Sys2Proof/Laws/Memory.lean ====
section
/-! SUPPORT. The laws of the buffer operations: a read after a write, the canonical form and the bound kept by every
operation, and equality of canonical buffers that read alike. -/

namespace Sys2Proof.Machine

@[simp] theorem Memory.read_nil (a : Nat) : Memory.read [] a = 0 := rfl

theorem Memory.read_cons (k : Nat) (v : Byte) (m : Memory) (a : Nat) :
    Memory.read ((k, v) :: m) a = if k = a then v else Memory.read m a := rfl

@[simp] theorem Memory.wfFrom_cons (lo k : Nat) (v : Byte) (m : Memory) :
    Memory.wfFrom lo ((k, v) :: m) = true ↔ lo ≤ k ∧ v ≠ 0 ∧ Memory.wfFrom (k + 1) m = true := by
  simp [Memory.wfFrom, and_assoc]

@[simp] theorem Memory.wf_nil : Memory.wf [] = true := rfl

@[simp] theorem Memory.within_nil (n : Nat) : Memory.within n [] = true := rfl

@[simp] theorem Memory.within_cons (n k : Nat) (v : Byte) (m : Memory) :
    Memory.within n ((k, v) :: m) = true ↔ k < n ∧ Memory.within n m = true := by
  simp [Memory.within]

/-- A list that rises from `hi` on rises from any lower index on. -/
theorem Memory.wfFrom_mono {lo hi : Nat} (h : lo ≤ hi) :
    ∀ {m : Memory}, Memory.wfFrom hi m = true → Memory.wfFrom lo m = true
  | [], _ => rfl
  | (_, _) :: _, hm => by
    rw [Memory.wfFrom_cons] at hm ⊢
    exact ⟨h.trans hm.1, hm.2⟩

/-- Below the least index a canonical list reads 0x00. -/
theorem Memory.read_below {lo a : Nat} (h : a < lo) :
    ∀ {m : Memory}, Memory.wfFrom lo m = true → Memory.read m a = 0
  | [], _ => rfl
  | (k, v) :: m, hm => by
    obtain ⟨hk, -, hm⟩ := (Memory.wfFrom_cons ..).1 hm
    rw [Memory.read_cons, if_neg (by omega)]
    exact Memory.read_below (by omega) hm

/-- A write changes no other byte. -/
theorem Memory.read_write_other {a x : Nat} (h : x ≠ a) (b : Byte) :
    ∀ m : Memory, Memory.read (Memory.write m a b) x = Memory.read m x
  | [] => by
    rw [Memory.write]
    split <;> simp [Memory.read, Ne.symm h]
  | (k, v) :: m => by
    have ih := Memory.read_write_other h b m
    simp only [Memory.write]
    split
    · split <;> simp [Memory.read, Ne.symm h]
    · split
      · subst_vars
        split <;> simp [Memory.read, Ne.symm h]
      · simp [Memory.read, ih]

/-- A read after a write to the same byte gives the value written. -/
theorem Memory.read_write_same_from (a : Nat) (b : Byte) :
    ∀ {lo : Nat} {m : Memory}, Memory.wfFrom lo m = true → Memory.read (Memory.write m a b) a = b
  | _, [], _ => by
    rw [Memory.write]
    split
    · exact (‹b = 0›).symm
    · simp [Memory.read]
  | _, (k, v) :: m, hm => by
    obtain ⟨-, -, hm⟩ := (Memory.wfFrom_cons ..).1 hm
    have ih := Memory.read_write_same_from a b hm
    simp only [Memory.write]
    split
    case isTrue hlt =>
      split
      · rw [Memory.read_cons, if_neg (by omega), Memory.read_below (by omega) hm]
        exact (‹b = 0›).symm
      · simp [Memory.read]
    case isFalse hge =>
      split
      · subst_vars
        split
        · rw [Memory.read_below (Nat.lt_succ_self k) hm]
          exact (‹b = 0›).symm
        · simp [Memory.read]
      · rw [Memory.read_cons, if_neg (Ne.symm ‹_›), ih]

theorem Memory.read_write_same {m : Memory} (h : Memory.wf m = true) (a : Nat) (b : Byte) :
    Memory.read (Memory.write m a b) a = b :=
  Memory.read_write_same_from a b h

/-- What a byte reads after a write, said once. -/
theorem Memory.read_write {m : Memory} (h : Memory.wf m = true) (a x : Nat) (b : Byte) :
    Memory.read (Memory.write m a b) x = if x = a then b else Memory.read m x := by
  split
  · subst_vars; exact Memory.read_write_same h _ b
  · exact Memory.read_write_other ‹_› b m

/-- A write keeps the canonical form. -/
theorem Memory.wfFrom_write (a : Nat) (b : Byte) :
    ∀ {lo : Nat} {m : Memory}, lo ≤ a → Memory.wfFrom lo m = true → Memory.wfFrom lo (Memory.write m a b) = true
  | lo, [], hlo, _ => by
    rw [Memory.write]
    split
    · rfl
    · rw [Memory.wfFrom_cons]
      exact ⟨hlo, ‹_›, rfl⟩
  | lo, (k, v) :: m, hlo, hm => by
    obtain ⟨hk, hv, hm⟩ := (Memory.wfFrom_cons ..).1 hm
    simp only [Memory.write]
    split
    case isTrue hlt =>
      split <;> simp_all
    case isFalse hge =>
      split
      · split
        · exact Memory.wfFrom_mono (by omega) hm
        · simp_all
      · rw [Memory.wfFrom_cons]
        exact ⟨hk, hv, Memory.wfFrom_write a b (by omega) hm⟩

theorem Memory.wf_write {m : Memory} (h : Memory.wf m = true) (a : Nat) (b : Byte) :
    Memory.wf (Memory.write m a b) = true :=
  Memory.wfFrom_write a b (Nat.zero_le a) h

/-- A write inside a buffer stores nothing outside it. -/
theorem Memory.within_write {n a : Nat} (ha : a < n) (b : Byte) :
    ∀ {m : Memory}, Memory.within n m = true → Memory.within n (Memory.write m a b) = true
  | [], _ => by
    rw [Memory.write]
    split <;> simp [ha]
  | (k, v) :: m, hm => by
    obtain ⟨hk, hm⟩ := (Memory.within_cons ..).1 hm
    have ih := Memory.within_write ha b hm
    simp only [Memory.write]
    split
    · split <;> simp_all
    · split
      · split <;> simp_all
      · simp_all

@[simp] theorem Memory.writeBytes_nil (m : Memory) (a : Nat) : Memory.writeBytes m a [] = m := by
  rw [Memory.writeBytes]

theorem Memory.writeBytes_cons (m : Memory) (a : Nat) (b : Byte) (bs : List Byte) :
    Memory.writeBytes m a (b :: bs) = Memory.writeBytes (Memory.write m a b) (a + 1) bs := by
  rw [Memory.writeBytes]

/-- Writing a run of bytes keeps the canonical form. -/
theorem Memory.wf_writeBytes :
    ∀ (bs : List Byte) {m : Memory} (a : Nat), Memory.wf m = true → Memory.wf (Memory.writeBytes m a bs) = true
  | [], _, _, h => by rwa [Memory.writeBytes_nil]
  | b :: bs, _, a, h => by
    rw [Memory.writeBytes_cons]
    exact Memory.wf_writeBytes bs (a + 1) (Memory.wf_write h a b)

/-- Writing a run of bytes inside a buffer stores nothing outside it. -/
theorem Memory.within_writeBytes {n : Nat} :
    ∀ (bs : List Byte) {m : Memory} {a : Nat}, a + bs.length ≤ n → Memory.within n m = true →
      Memory.within n (Memory.writeBytes m a bs) = true
  | [], _, _, _, h => by rwa [Memory.writeBytes_nil]
  | b :: bs, _, _, ha, h => by
    rw [List.length_cons] at ha
    rw [Memory.writeBytes_cons]
    exact Memory.within_writeBytes bs (by omega) (Memory.within_write (by omega) b h)

/-- A run of bytes written changes nothing outside it. -/
theorem Memory.read_writeBytes_other :
    ∀ (bs : List Byte) (m : Memory) (a x : Nat), x < a ∨ a + bs.length ≤ x →
      Memory.read (Memory.writeBytes m a bs) x = Memory.read m x
  | [], _, _, _, _ => by rw [Memory.writeBytes_nil]
  | b :: bs, m, a, x, hx => by
    rw [List.length_cons] at hx
    rw [Memory.writeBytes_cons, Memory.read_writeBytes_other bs _ _ _ (by omega),
      Memory.read_write_other (by omega)]

/-- Each byte of a run written reads back. -/
theorem Memory.read_writeBytes :
    ∀ (bs : List Byte) {m : Memory} (a i : Nat) (hi : i < bs.length), Memory.wf m = true →
      Memory.read (Memory.writeBytes m a bs) (a + i) = bs[i]
  | b :: bs, m, a, 0, _, h => by
    rw [Memory.writeBytes_cons, Memory.read_writeBytes_other bs _ _ _ (by omega)]
    exact Memory.read_write_same h a b
  | b :: bs, m, a, i + 1, hi, h => by
    have := Memory.read_writeBytes bs (a + 1) i (by simpa using hi) (Memory.wf_write h a b)
    rw [Memory.writeBytes_cons, show a + (i + 1) = a + 1 + i by omega, this]
    rfl

@[simp] theorem Memory.readBytes_length (m : Memory) : ∀ n a : Nat, (Memory.readBytes m a n).length = n
  | 0, _ => rfl
  | n + 1, a => by simp [Memory.readBytes, Memory.readBytes_length m n]

/-- The bytes a run reads depend on the bytes in it alone. -/
theorem Memory.readBytes_congr {m m' : Memory} :
    ∀ (n a : Nat), (∀ i, a ≤ i → i < a + n → Memory.read m i = Memory.read m' i) →
      Memory.readBytes m a n = Memory.readBytes m' a n
  | 0, _, _ => rfl
  | n + 1, a, h => by
    rw [Memory.readBytes, Memory.readBytes, h a (Nat.le_refl a) (by omega),
      Memory.readBytes_congr n (a + 1) fun i h1 h2 => h i (by omega) (by omega)]

/-- Two canonical buffers that read alike are equal. -/
theorem Memory.eq_of_read_from :
    ∀ {lo : Nat} {m m' : Memory}, Memory.wfFrom lo m = true → Memory.wfFrom lo m' = true →
      (∀ a, Memory.read m a = Memory.read m' a) → m = m'
  | _, [], [], _, _, _ => rfl
  | _, [], (k, v) :: m', _, h', he => by
    obtain ⟨-, hv, -⟩ := (Memory.wfFrom_cons ..).1 h'
    exact absurd (by simpa [Memory.read] using (he k).symm) hv
  | _, (k, v) :: m, [], h, _, he => by
    obtain ⟨-, hv, -⟩ := (Memory.wfFrom_cons ..).1 h
    exact absurd (by simpa [Memory.read] using he k) hv
  | _, (k, v) :: m, (k', v') :: m', h, h', he => by
    obtain ⟨-, hv, hm⟩ := (Memory.wfFrom_cons ..).1 h
    obtain ⟨-, hv', hm'⟩ := (Memory.wfFrom_cons ..).1 h'
    have hkk : k = k' := by
      rcases Nat.lt_trichotomy k k' with hlt | heq | hgt
      · have := he k
        rw [Memory.read_cons, if_pos rfl, Memory.read_cons, if_neg (by omega),
          Memory.read_below (by omega) hm'] at this
        exact absurd this hv
      · exact heq
      · have := he k'
        rw [Memory.read_cons, if_neg (by omega), Memory.read_below (by omega) hm, Memory.read_cons,
          if_pos rfl] at this
        exact absurd this.symm hv'
    subst hkk
    have hvv : v = v' := by simpa [Memory.read] using he k
    subst hvv
    have hrest : ∀ a, Memory.read m a = Memory.read m' a := fun a => by
      rcases Nat.lt_or_ge a (k + 1) with hlt | hge
      · rw [Memory.read_below hlt hm, Memory.read_below hlt hm']
      · simpa [Memory.read, show ¬ k = a by omega] using he a
    rw [Memory.eq_of_read_from hm hm' hrest]

theorem Memory.eq_of_read {m m' : Memory} (h : Memory.wf m = true) (h' : Memory.wf m' = true)
    (he : ∀ a, Memory.read m a = Memory.read m' a) : m = m' :=
  Memory.eq_of_read_from h h' he

/-! ### Words of a buffer -/

@[simp] theorem bytesLE16_length (v : Half) : (bytesLE16 v).length = 2 := rfl

@[simp] theorem bytesLE32_length (v : Word) : (bytesLE32 v).length = 4 := rfl

/-- A byte appended below a value, as numbers. -/
theorem append_byte_toNat {w : Nat} (x : BitVec w) (y : Byte) : (x ++ y).toNat = x.toNat * 256 + y.toNat := by
  rw [BitVec.toNat_append, ← Nat.shiftLeft_add_eq_or_of_lt y.isLt, Nat.shiftLeft_eq]

/-- `LE16` as a number (00_scope.md R11). -/
theorem le16_toNat (b0 b1 : Byte) : (le16 b0 b1).toNat = b0.toNat + 256 * b1.toNat := by
  rw [le16, append_byte_toNat]
  omega

/-- `LE24` as a number (00_scope.md R11). -/
theorem le24_toNat (b0 b1 b2 : Byte) :
    (le24 b0 b1 b2).toNat = b0.toNat + 256 * b1.toNat + 65536 * b2.toNat := by
  rw [le24, append_byte_toNat, append_byte_toNat]
  omega

/-- `LE32` as a number (00_scope.md R11). -/
theorem le32_toNat (b0 b1 b2 b3 : Byte) :
    (le32 b0 b1 b2 b3).toNat = b0.toNat + 256 * b1.toNat + 65536 * b2.toNat + 16777216 * b3.toNat := by
  rw [le32, append_byte_toNat, append_byte_toNat, append_byte_toNat]
  omega

/-- `LE16` puts the bytes of a half word together again. -/
theorem le16_bytes (v : Half) : le16 (v.extractLsb' 0 8) (v.extractLsb' 8 8) = v := by
  apply BitVec.eq_of_toNat_eq
  have := v.isLt
  simp only [le16_toNat, BitVec.extractLsb'_toNat, Nat.shiftRight_eq_div_pow]
  omega

/-- `LE32` puts the bytes of a word together again. -/
theorem le32_bytes (v : Word) :
    le32 (v.extractLsb' 0 8) (v.extractLsb' 8 8) (v.extractLsb' 16 8) (v.extractLsb' 24 8) = v := by
  apply BitVec.eq_of_toNat_eq
  have := v.isLt
  simp only [le32_toNat, BitVec.extractLsb'_toNat, Nat.shiftRight_eq_div_pow]
  omega

/-- A word written least significant byte first reads back. -/
theorem Memory.word_writeBytes {m : Memory} (h : Memory.wf m = true) (a : Nat) (v : Word) :
    Memory.word (Memory.writeBytes m a (bytesLE32 v)) a = v := by
  have r := fun i hi => Memory.read_writeBytes (bytesLE32 v) a i hi h
  have r0 := r 0 (by simp)
  have r1 := r 1 (by simp)
  have r2 := r 2 (by simp)
  have r3 := r 3 (by simp)
  rw [Nat.add_zero] at r0
  rw [Memory.word, r0, r1, r2, r3]
  exact le32_bytes v

end Sys2Proof.Machine
end

