-- ==== Sys2Proof/Laws/Exec.lean ====
section
/-! SUPPORT. What each meaning and each shared operation can do, said once: the provers cite these instead of
unfolding. -/

namespace Sys2Proof.Machine

/-! ### Frames -/

@[simp] theorem msgIdBytes_length : msgIdBytes.length = 3 := rfl

@[simp] theorem headerTail_length (c : Byte) (o : Inputs) : (headerTail c o).length = 9 := rfl

@[simp] theorem payloadBytes_length (o : Inputs) (la lo : Word) : (payloadBytes o la lo).length = 28 := rfl

/-- A frame is always 40 bytes (41_encoder.md R136). -/
@[simp] theorem frameBytes_length (c : Byte) (o : Inputs) (la lo : Word) : (frameBytes c o la lo).length = 40 := rfl

/-- A byte of a frame written to `TXBUF` reads back. -/
theorem emitFrame_read {s : State} (h : Memory.wf s.txbuf = true) (la lo : Word) {i : Nat} (hi : i < 40) :
    Memory.read (emitFrame la lo s).txbuf i =
      (frameBytes Config.compId s.operands la lo)[i]'(by rw [frameBytes_length]; exact hi) := by
  rw [emitFrame_txbuf]
  have := Memory.read_writeBytes (frameBytes Config.compId s.operands la lo) 0 i
    (by rw [frameBytes_length]; exact hi) h
  rwa [Nat.zero_add] at this

/-- Writing a frame changes no byte past the 40 of `TXBUF`. -/
theorem emitFrame_read_past (s : State) (la lo : Word) {i : Nat} (hi : 40 ≤ i) :
    Memory.read (emitFrame la lo s).txbuf i = Memory.read s.txbuf i := by
  rw [emitFrame_txbuf]
  exact Memory.read_writeBytes_other _ _ _ _ (Or.inr (by rw [frameBytes_length]; omega))

/-! ### The checksum -/

@[simp] theorem crcBytes_nil (c : Half) : crcBytes c [] = c := rfl

@[simp] theorem crcBytes_cons (c : Half) (b : Byte) (bs : List Byte) :
    crcBytes c (b :: bs) = crcBytes (crcAcc c b) bs := rfl

/-! ### The conversion to `i32` (41_encoder.md R130) -/

theorem toI32_cases {q : Int} {w : Word} (h : toI32 q = some w) :
    -2147483648 ≤ q ∧ q ≤ 2147483647 ∧ w = BitVec.ofInt 32 q := by
  unfold toI32 at h
  split at h
  · cases h
  · rename_i hq
    simp only [Bool.or_eq_true, decide_eq_true_eq, not_or, not_lt, gt_iff_lt] at hq
    exact ⟨hq.1, hq.2, (Option.some.inj h).symm⟩

theorem toI32_none {q : Int} (h : toI32 q = none) : q < -2147483648 ∨ 2147483647 < q := by
  unfold toI32 at h
  split at h
  · rename_i hq
    simpa only [Bool.or_eq_true, decide_eq_true_eq, gt_iff_lt] using hq
  · cases h

/-- What `scale` can answer with a value (41_encoder.md R130). -/
theorem scale_cases {x : F64} {w : Word} (h : scale x = some w) :
    f64IsNan x = false ∧ f64IsInf x = false ∧ f64IsInf (mulRne x coordScale) = false ∧
      toI32 (f64Trunc (mulRne x coordScale)) = some w := by
  unfold scale at h
  split at h
  · cases h
  · rename_i hx
    simp only at h
    split at h
    · cases h
    · rename_i hp
      simp only [Bool.or_eq_true, not_or, Bool.not_eq_true] at hx hp
      exact ⟨hx.1, hx.2, hp, h⟩

/-! ### The meanings -/

/-- What `ENCODE` can do (41_encoder.md R138). -/
theorem execEncode_cases {s t : State} (h : execEncode s = .next t) :
    (∃ la lo, scale s.operands.latF64 = some la ∧ scale s.operands.lonF64 = some lo ∧
        t = complete .ok { emitFrame la lo s with latE7 := la, lonE7 := lo }) ∨
      ((scale s.operands.latF64 = none ∨ scale s.operands.lonF64 = none) ∧ t = complete .scaleOutOfRange s) := by
  unfold execEncode at h
  split at h
  · rename_i la lo hla hlo
    exact Or.inl ⟨la, lo, hla, hlo, (Host.Outcome.next.inj h).symm⟩
  · rename_i hno
    refine Or.inr ⟨?_, (Host.Outcome.next.inj h).symm⟩
    cases hla : scale s.operands.latF64 with
    | none => exact Or.inl rfl
    | some la =>
      cases hlo : scale s.operands.lonF64 with
      | none => exact Or.inr rfl
      | some lo => exact absurd hlo (hno la lo hla)

/-- What `ENCODE_RAW` does (41_encoder.md R139). -/
theorem execEncodeRaw_cases {s t : State} (h : execEncodeRaw s = .next t) :
    t = complete .ok (emitFrame s.operands.latE7 s.operands.lonE7 s) :=
  (Host.Outcome.next.inj h).symm

/-- What `DECODE` can do (42_decoder.md R160, R169). -/
theorem execDecode_cases {s t : State} (h : execDecode s = .next t) :
    (decodeFrame s.operands = .malformed ∧ t = complete .malformedFrame s) ∨
      (decodeFrame s.operands = .unsupported ∧ t = complete .unsupportedMessageType s) ∨
      (∃ computed received, decodeFrame s.operands = .mismatch computed received ∧
        t = complete .checksumMismatch (recordChecksums computed received s)) ∨
      (∃ computed received sysId lat lon, decodeFrame s.operands = .sample computed received sysId lat lon ∧
        t = complete .ok (writeSample sysId lat lon (recordChecksums computed received s))) := by
  unfold execDecode at h
  split at h <;> rename_i hd
  · exact Or.inl ⟨hd, (Host.Outcome.next.inj h).symm⟩
  · exact Or.inr (Or.inl ⟨hd, (Host.Outcome.next.inj h).symm⟩)
  · exact Or.inr (Or.inr (Or.inl ⟨_, _, hd, (Host.Outcome.next.inj h).symm⟩))
  · exact Or.inr (Or.inr (Or.inr ⟨_, _, _, _, _, hd, (Host.Outcome.next.inj h).symm⟩))

/-- A sample comes from a frame that passed every check (42_decoder.md R160 to R167). -/
theorem decodeFrame_sample {o : Inputs} {computed received : Half} {sysId : Byte} {lat lon : Word}
    (h : decodeFrame o = .sample computed received sysId lat lon) :
    10 ≤ o.rxLength ∧ 12 + o.rxDeclared ≤ o.rxLength ∧ o.rxMsgId = Config.msgId ∧
      lengthRejected o.strictLen o.rxDeclared = false ∧ (o.verifyCrc && o.calcChecksum != o.rxChecksum) = false ∧
      computed = o.calcChecksum ∧ received = o.rxChecksum ∧ sysId = o.rxSysId ∧ lat = o.rxLat ∧ lon = o.rxLon := by
  unfold decodeFrame at h
  split at h; · cases h
  split at h; · cases h
  split at h; · cases h
  split at h; · cases h
  split at h; · cases h
  rename_i h1 h2 h3 h4 h5
  simp only [Config.hdrLen, Config.crcLen] at h1 h2
  cases h
  exact ⟨by omega, by omega, not_ne_iff.1 h3, by simpa using h4, by simpa using h5, rfl, rfl, rfl, rfl, rfl⟩

/-- A checksum mismatch comes from a frame that passed every check but the last (42_decoder.md R166). -/
theorem decodeFrame_mismatch {o : Inputs} {computed received : Half}
    (h : decodeFrame o = .mismatch computed received) :
    10 ≤ o.rxLength ∧ 12 + o.rxDeclared ≤ o.rxLength ∧ o.rxMsgId = Config.msgId ∧
      lengthRejected o.strictLen o.rxDeclared = false ∧ o.verifyCrc = true ∧ o.calcChecksum ≠ o.rxChecksum ∧
      computed = o.calcChecksum ∧ received = o.rxChecksum := by
  unfold decodeFrame at h
  split at h; · cases h
  split at h; · cases h
  split at h; · cases h
  split at h; · cases h
  split at h
  case isFalse => cases h
  rename_i h1 h2 h3 h4 h5
  simp only [Config.hdrLen, Config.crcLen] at h1 h2
  simp only [Bool.and_eq_true, bne_iff_ne] at h5
  cases h
  exact ⟨by omega, by omega, not_ne_iff.1 h3, by simpa using h4, h5.1, h5.2, rfl, rfl⟩

end Sys2Proof.Machine
end

