-- ==== Sys2Proof/Laws/Float.lean ====
section
/-! SUPPORT. The laws of binary64 patterns: the fields and the units of a packed pattern, and the range of the
significand that rounding computes. -/

namespace Sys2Proof.Machine

/-- A packed pattern as a number. -/
theorem f64Pack_toNat (s : Bool) {m : Nat} (h : m < 2 ^ 63) :
    (f64Pack s m).toNat = s.toNat * 2 ^ 63 + m := by
  rw [f64Pack, BitVec.toNat_append, BitVec.toNat_ofNat, Nat.mod_eq_of_lt h, BitVec.toNat_ofBool,
    ← Nat.shiftLeft_add_eq_or_of_lt h, Nat.shiftLeft_eq]

/-- The three fields of a pattern as numbers. -/
theorem f64Sign_eq (x : F64) : f64Sign x = decide (2 ^ 63 ≤ x.toNat) := by
  rw [f64Sign, ← BitVec.msb_eq_getLsbD_last, BitVec.msb_eq_decide]

theorem f64Exp_eq (x : F64) : f64Exp x = x.toNat / 2 ^ 52 % 2 ^ 11 := by
  simp [f64Exp, Nat.shiftRight_eq_div_pow]

theorem f64Frac_eq (x : F64) : f64Frac x = x.toNat % 2 ^ 52 := by
  simp [f64Frac]

@[simp] theorem f64Frac_lt (x : F64) : f64Frac x < 2 ^ 52 := by
  rw [f64Frac_eq]
  omega

theorem f64Exp_lt (x : F64) : f64Exp x < 2048 := by
  rw [f64Exp_eq]
  omega

theorem f64Sign_pack (s : Bool) {m : Nat} (h : m < 2 ^ 63) : f64Sign (f64Pack s m) = s := by
  rw [f64Sign_eq, f64Pack_toNat s h]
  cases s
  · simpa using h
  · simp

theorem f64Exp_pack (s : Bool) {m : Nat} (h : m < 2 ^ 63) : f64Exp (f64Pack s m) = m / 2 ^ 52 := by
  rw [f64Exp_eq, f64Pack_toNat s h]
  cases s <;> simp <;> omega

theorem f64Frac_pack (s : Bool) {m : Nat} (h : m < 2 ^ 63) : f64Frac (f64Pack s m) = m % 2 ^ 52 := by
  rw [f64Frac_eq, f64Pack_toNat s h]
  cases s
  · simp
  · simp
    omega

/-- The units of a packed pattern from its exponent `e` and its significand with the leading 1. -/
theorem f64Units_pack (s : Bool) {e q : Nat} (hq : q ≤ 2 ^ 53) (he : e = 0 ∨ 2 ^ 52 ≤ q)
    (h : e * 2 ^ 52 + q < 2 ^ 63) : f64Units (f64Pack s (e * 2 ^ 52 + q)) = q * 2 ^ e := by
  rw [f64Units, f64Exp_pack s h, f64Frac_pack s h]
  rcases Nat.lt_or_ge q (2 ^ 52) with hlt | hge
  · obtain rfl : e = 0 := he.resolve_right (by omega)
    rw [if_pos (by omega)]
    omega
  · rw [if_neg (by omega)]
    rcases Nat.lt_or_ge q (2 ^ 53) with hlt | hge'
    · rw [show (e * 2 ^ 52 + q) / 2 ^ 52 = e + 1 by omega, show (e * 2 ^ 52 + q) % 2 ^ 52 = q - 2 ^ 52 by omega,
        Nat.add_sub_cancel, Nat.add_sub_cancel' hge]
    · obtain rfl : q = 2 ^ 53 := by omega
      rw [show (e * 2 ^ 52 + 2 ^ 53) / 2 ^ 52 = e + 1 + 1 by omega,
        show (e * 2 ^ 52 + 2 ^ 53) % 2 ^ 52 = 0 by omega, Nat.add_sub_cancel, Nat.pow_succ]
      omega

/-- The units of any finite pattern, as a significand and an exponent. -/
theorem f64Units_eq (x : F64) :
    ∃ e q, q < 2 ^ 53 ∧ (e = 0 ∨ 2 ^ 52 ≤ q) ∧ e = f64Exp x - 1 ∧ q % 2 ^ 52 = f64Frac x ∧ f64Units x = q * 2 ^ e := by
  have hf := f64Frac_lt x
  unfold f64Units
  split
  · exact ⟨0, f64Frac x, by omega, Or.inl rfl, by omega, by omega, by simp⟩
  · exact ⟨f64Exp x - 1, 2 ^ 52 + f64Frac x, by omega, Or.inr (by omega), rfl, by omega, rfl⟩

/-- The exponent `roundMagnitude` chooses: the significand it leaves has at most 53 bits, and exactly 53 unless the
exponent is the least one. -/
theorem significand_range (n den : Nat) :
    n / (den * 2 ^ (Nat.log2 (n / den) - 52)) < 2 ^ 53 ∧
      (Nat.log2 (n / den) - 52 = 0 ∨ 2 ^ 52 ≤ n / (den * 2 ^ (Nat.log2 (n / den) - 52))) := by
  rw [← Nat.div_div_eq_div_mul]
  generalize n / den = v
  constructor
  · rw [Nat.div_lt_iff_lt_mul (Nat.two_pow_pos _), ← Nat.pow_add]
    exact Nat.lt_log2_self.trans_le (Nat.pow_le_pow_right (by decide) (by omega))
  · rcases Nat.eq_zero_or_pos (Nat.log2 v - 52) with h | h
    · exact Or.inl h
    · refine Or.inr ?_
      have hv : v ≠ 0 := by
        rintro rfl
        simp at h
      rw [Nat.le_div_iff_mul_le (Nat.two_pow_pos _), ← Nat.pow_add, show 52 + (Nat.log2 v - 52) = Nat.log2 v by omega]
      exact Nat.log2_self_le hv

/-- Rounding never goes past the pattern of infinity. -/
theorem roundMagnitude_le (num den : Nat) : roundMagnitude num den ≤ 0x7FF0000000000000 := Nat.min_le_right _ _

theorem roundMagnitude_lt (num den : Nat) : roundMagnitude num den < 2 ^ 63 :=
  (roundMagnitude_le num den).trans_lt (by decide)

/-- What `roundMagnitude` computes, with the exponent, the significand and the remainder named: the quotient
`num * 2 ^ 1074 / den` lies between `q` and `q + 1` units of `2 ^ e`, and the answer takes the nearer of the two, the
even one in the middle. -/
theorem roundMagnitude_cases {num den : Nat} (hd : 0 < den) :
    ∃ e q r, num * 2 ^ 1074 = (den * 2 ^ e) * q + r ∧ r < den * 2 ^ e ∧ q < 2 ^ 53 ∧ (e = 0 ∨ 2 ^ 52 ≤ q) ∧
      ((roundMagnitude num den = min (e * 2 ^ 52 + (q + 1)) 0x7FF0000000000000 ∧
          (den * 2 ^ e < 2 * r ∨ (2 * r = den * 2 ^ e ∧ q % 2 = 1))) ∨
        (roundMagnitude num den = min (e * 2 ^ 52 + q) 0x7FF0000000000000 ∧
          (2 * r < den * 2 ^ e ∨ (2 * r = den * 2 ^ e ∧ q % 2 = 0)))) := by
  dsimp only [roundMagnitude]
  generalize num * 2 ^ 1074 = n
  have hs := significand_range n den
  revert hs
  generalize Nat.log2 (n / den) - 52 = e
  intro hs
  have hpos : 0 < den * 2 ^ e := Nat.mul_pos hd (Nat.two_pow_pos e)
  refine ⟨e, n / (den * 2 ^ e), n % (den * 2 ^ e), (Nat.div_add_mod n _).symm, Nat.mod_lt n hpos, hs.1, hs.2, ?_⟩
  generalize den * 2 ^ e = d
  generalize 0x7FF0000000000000 = top
  split
  · rename_i h
    simp only [Bool.or_eq_true, Bool.and_eq_true, decide_eq_true_eq] at h
    exact Or.inl ⟨rfl, h⟩
  · rename_i h
    simp only [Bool.or_eq_true, Bool.and_eq_true, decide_eq_true_eq, not_or, not_and] at h
    refine Or.inr ⟨rfl, ?_⟩
    rcases Nat.lt_or_ge (2 * (n % d)) d with h1 | h1
    · exact Or.inl h1
    · have h2 : 2 * (n % d) = d := by omega
      have := h.2 h2
      exact Or.inr ⟨h2, by omega⟩

end Sys2Proof.Machine
end

