-- ==== Sys2Proof/Laws/Frame.lean ====
section
/-! SUPPORT. Laws of frames: reading back what an encode command wrote, which bytes a decision of the decoder depends
on, and when each check of the decoder passes. -/

namespace Sys2Proof.Machine

/-- The two halves of a binary64 pattern put together again. -/
theorem halves_append (x : F64) : (x.extractLsb' 32 32 : Word) ++ (x.extractLsb' 0 32 : Word) = x := by
  apply BitVec.eq_of_toNat_eq
  rw [BitVec.toNat_append, ← Nat.shiftLeft_add_eq_or_of_lt (BitVec.isLt _), Nat.shiftLeft_eq]
  have := x.isLt
  simp only [BitVec.extractLsb'_toNat, Nat.shiftRight_eq_div_pow, Nat.pow_zero, Nat.div_one]
  omega

/-- A word of a buffer depends on its four bytes alone. -/
theorem Memory.word_congr {m m' : Memory} {i : Nat}
    (h : ∀ j, i ≤ j → j < i + 4 → Memory.read m j = Memory.read m' j) : Memory.word m i = Memory.word m' i := by
  rw [Memory.word, Memory.word, h i (by omega) (by omega), h (i + 1) (by omega) (by omega),
    h (i + 2) (by omega) (by omega), h (i + 3) (by omega) (by omega)]

/-- A half word of a buffer depends on its two bytes alone. -/
theorem Memory.half_congr {m m' : Memory} {i : Nat}
    (h : ∀ j, i ≤ j → j < i + 2 → Memory.read m j = Memory.read m' j) : Memory.half m i = Memory.half m' i := by
  rw [Memory.half, Memory.half, h i (by omega) (by omega), h (i + 1) (by omega) (by omega)]

/-- A run of bytes of an emitted frame is that run of `frameBytes`. -/
theorem emitFrame_readBytes {s : State} (h : Memory.wf s.txbuf = true) (la lo : Word) :
    ∀ n a, a + n ≤ 40 → Memory.readBytes (emitFrame la lo s).txbuf a n =
      ((frameBytes Config.compId s.operands la lo).drop a).take n
  | 0, _, _ => by simp [Memory.readBytes]
  | n + 1, a, ha => by
    rw [Memory.readBytes, emitFrame_readBytes h la lo n (a + 1) (by omega), emitFrame_read h la lo (by omega : a < 40),
      List.drop_eq_getElem_cons (i := a) (by rw [frameBytes_length]; omega), List.take_succ_cons]

/-- The checksum of a frame as the checksum of its covered bytes. -/
theorem frameChecksum_eq (c : Byte) (o : Inputs) (la lo : Word) :
    frameChecksum c o la lo = crcFrame (headerTail c o ++ payloadBytes o la lo) := by
  rw [frameChecksum]

/-- The last two bytes of an emitted frame are its checksum (41_encoder.md R136). -/
theorem emitFrame_sent {s : State} (h : Memory.wf s.txbuf = true) (la lo : Word) :
    Memory.half (emitFrame la lo s).txbuf 38 = frameChecksum Config.compId s.operands la lo := by
  rw [Memory.half, emitFrame_read h la lo (i := 38) (by omega), emitFrame_read h la lo (i := 39) (by omega)]
  exact le16_bytes _

/-! ### The checks of the decoder -/

/-- The message type check, byte by byte (42_decoder.md R163). -/
theorem rxMsgId_eq_iff (o : Inputs) :
    o.rxMsgId = Config.msgId ↔
      Memory.read o.rxbuf 7 = 33 ∧ Memory.read o.rxbuf 8 = 0 ∧ Memory.read o.rxbuf 9 = 0 := by
  unfold Inputs.rxMsgId
  generalize Memory.read o.rxbuf 7 = a
  generalize Memory.read o.rxbuf 8 = b
  generalize Memory.read o.rxbuf 9 = c
  constructor
  · intro h
    have h := congrArg BitVec.toNat h
    have h33 : (Config.msgId).toNat = 33 := rfl
    have ha := a.isLt
    have hb := b.isLt
    rw [le24_toNat, h33] at h
    refine ⟨BitVec.eq_of_toNat_eq ?_, BitVec.eq_of_toNat_eq ?_, BitVec.eq_of_toNat_eq ?_⟩ <;> simp <;> omega
  · rintro ⟨rfl, rfl, rfl⟩
    decide

/-- The length policy accepts (42_decoder.md R164). -/
theorem lengthRejected_eq_false_iff (strict : Bool) (n : Nat) :
    lengthRejected strict n = false ↔ (strict = true → n = 28) ∧ (strict = false → 12 ≤ n) := by
  cases strict
  · have h : lengthRejected false n = decide (n < 12) := rfl
    rw [h, decide_eq_false_iff_not]
    simp
  · simp [lengthRejected, Config.payloadLen]

/-- A buffer that is too short (42_decoder.md R161, R162). -/
theorem decodeFrame_short {o : Inputs} (h : o.rxLength < 10 ∨ o.rxLength < 12 + o.rxDeclared) :
    decodeFrame o = .malformed := by
  unfold decodeFrame
  by_cases h1 : o.rxLength < Config.hdrLen
  · rw [if_pos h1]
  · have h2 : o.rxLength < Config.hdrLen + o.rxDeclared + Config.crcLen := by
      simp only [Config.hdrLen, Config.crcLen] at h1 ⊢
      omega
    rw [if_neg h1, if_pos h2]

/-- A long enough buffer is judged by its type, its length and its checksum, in this order (42_decoder.md R163 to
R167). -/
theorem decodeFrame_long {o : Inputs} (h : 12 + o.rxDeclared ≤ o.rxLength) :
    decodeFrame o =
      if o.rxMsgId ≠ Config.msgId then .unsupported
      else if lengthRejected o.strictLen o.rxDeclared then .malformed
      else if o.verifyCrc && o.calcChecksum != o.rxChecksum then .mismatch o.calcChecksum o.rxChecksum
      else .sample o.calcChecksum o.rxChecksum o.rxSysId o.rxLat o.rxLon := by
  unfold decodeFrame
  rw [if_neg (by simp only [Config.hdrLen]; omega), if_neg (by simp only [Config.hdrLen, Config.crcLen]; omega)]

end Sys2Proof.Machine
end

