-- ==== Sys2Proof/Laws/Step.lean ====
section
/-! SUPPORT. What a bus transaction, a turn of the world outside, and a step can do, said once. -/

namespace Sys2Proof.Machine

/-! ### The register map -/

/-- A `TXBUF` word the map gives is one of words 0 to 9 (10_state.md R50). -/
theorem busTarget_txWord {a : Offset} {k : Nat} (h : busTarget a = some (.txWord k)) :
    k < 10 ∧ 0x100 ≤ a.toNat ∧ k = (a.toNat - 0x100) / 4 := by
  unfold busTarget at h
  split at h
  · cases h
  · split at h
    · rename_i ha
      simp only [txBase, Config.txBytes] at ha h
      cases h
      exact ⟨by omega, ha.1, rfl⟩
    · split at h <;> cases h

/-- An `RXBUF` word the map gives is one of words 0 to 66 (10_state.md R51). -/
theorem busTarget_rxWord {a : Offset} {k : Nat} (h : busTarget a = some (.rxWord k)) :
    k < 67 ∧ 0x200 ≤ a.toNat ∧ k = (a.toNat - 0x200) / 4 := by
  unfold busTarget at h
  split at h
  · cases h
  · split at h
    · cases h
    · split at h
      · rename_i ha
        simp only [rxBase, Config.rxBytes] at ha h
        cases h
        exact ⟨by omega, ha.1, rfl⟩
      · cases h

/-- What a write to a register can do: a read-write register changes registers a command reads and nothing else;
`CMD` accepts a command; any other refuses (10_state.md R21, R28, R30). -/
theorem writeReg_cases {r : RegName} {v : Word} {s t : State} (h : writeReg r v s = some t) :
    (regAccess r = .rw ∧ t = { s with toInputs := t.toInputs } ∧ t.rxbuf = s.rxbuf) ∨
      (r = .cmd ∧ s.pend = none ∧ t = acceptCommand v s) := by
  cases r
  case cmd =>
    simp only [writeReg] at h
    split at h
    · cases h
    · exact Or.inr ⟨rfl, by simpa using ‹¬ s.pend.isSome = true›, (Option.some.inj h).symm⟩
  all_goals
    first
    | exact Or.inl ⟨rfl, by cases h; rfl, by cases h; rfl⟩
    | cases h

/-- What a write to a mapped word can do (20_memory.md R63, R66, R68). -/
theorem writeTarget_cases {b : BusTarget} {v : Word} {s t : State} (h : writeTarget b v s = some t) :
    (∃ r, b = .reg r ∧ writeReg r v s = some t) ∨
      (∃ k, b = .rxWord k ∧ t = { s with rxbuf := Memory.writeBytes s.rxbuf (4 * k) (bytesLE32 v) }) := by
  cases b with
  | reg r => exact Or.inl ⟨r, rfl, h⟩
  | txWord k => cases h
  | rxWord k => exact Or.inr ⟨k, rfl, (Option.some.inj h).symm⟩

/-- What a transaction reaches (20_memory.md R61). -/
theorem transactionTarget_cases {size : AccessSize} {a : Offset} {b : BusTarget}
    (h : transactionTarget size a = some b) : size = .b32 ∧ a.toNat % 4 = 0 ∧ busTarget a = some b := by
  unfold transactionTarget at h
  split at h
  · rename_i hl
    exact ⟨hl.1, hl.2, h⟩
  · cases h

/-- When a write takes effect, and on what (20_memory.md R61 to R64). -/
theorem busWrite_cases {size : AccessSize} {a : Offset} {v : Word} {s t : State}
    (h : busWrite size a v s = some t) :
    s.status.busy = false ∧ size = .b32 ∧ a.toNat % 4 = 0 ∧
      ∃ b, busTarget a = some b ∧ writeTarget b v s = some t := by
  unfold busWrite at h
  split at h
  · cases h
  · rename_i hb
    split at h
    · rename_i b hb'
      obtain ⟨h1, h2, h3⟩ := transactionTarget_cases hb'
      exact ⟨by simpa using hb, h1, h2, b, h3, h⟩
    · cases h

/-! ### The turns of the world outside -/

@[simp] theorem takeEvent_read (size : AccessSize) (a : Offset) (rest : List Event) (s : State) :
    takeEvent (.read size a) rest s = { s with events := rest, resp := some (busRead size a s) } := rfl

theorem takeEvent_write_some {size : AccessSize} {a : Offset} {v : Word} {s t : State}
    (h : busWrite size a v s = some t) (rest : List Event) :
    takeEvent (.write size a v) rest s = { t with events := rest, resp := some writeOkay } := by
  simp [takeEvent, h]

theorem takeEvent_write_none {size : AccessSize} {a : Offset} {v : Word} {s : State}
    (h : busWrite size a v s = none) (rest : List Event) :
    takeEvent (.write size a v) rest s = { s with events := rest, resp := some writeError } := by
  simp [takeEvent, h]

@[simp] theorem takeEvent_reset (rest : List Event) (s : State) :
    takeEvent .reset rest s = resetEvent { s with events := rest } := rfl

@[simp] theorem hostTurn_nil {s : State} (h : s.events = []) : hostTurn s = s := by
  simp [hostTurn, h]

theorem hostTurn_cons {s : State} {e : Event} {rest : List Event} (h : s.events = e :: rest) :
    hostTurn s = takeEvent e rest s := by
  simp [hostTurn, h]

/-! ### The steps -/

/-- What a step can do: the completion of a command word, of an illegal word, or a turn of the world outside. -/
theorem step_cases {s t : State} (h : step s = .next t) :
    (∃ p i, s.pend = some p ∧ engineMoves p s = true ∧ decodeCmd p.word = .ok i ∧ exec i s = .next t) ∨
      (∃ p e, s.pend = some p ∧ engineMoves p s = true ∧ decodeCmd p.word = .error e ∧ t = completeIllegal s) ∨
      (∃ p, s.pend = some p ∧ engineMoves p s = false ∧ t = hostTurn (passHostStep s)) ∨
      (s.pend = none ∧ t = hostTurn s) := by
  unfold step stepAgents at h
  split at h
  · rename_i p hp
    split at h
    · rename_i hm
      unfold completionStep at h
      split at h
      · rename_i i hi
        exact Or.inl ⟨p, i, hp, hm, hi, h⟩
      · rename_i e he
        exact Or.inr (Or.inl ⟨p, e, hp, hm, he, (Host.Outcome.next.inj h).symm⟩)
    · rename_i hm
      exact Or.inr (Or.inr (Or.inl ⟨p, hp, by simpa using hm, (Host.Outcome.next.inj h).symm⟩))
  · rename_i hp
    exact Or.inr (Or.inr (Or.inr ⟨hp, (Host.Outcome.next.inj h).symm⟩))

/-- The engine does not move only while a host step is left and its count has not run out. -/
theorem engineMoves_false {p : Pending} {s : State} (h : engineMoves p s = false) :
    s.events ≠ [] ∧ p.wait ≠ 0 := by
  simpa [engineMoves, List.isEmpty_eq_false_iff] using h

end Sys2Proof.Machine
end

