-- ==== Sys2Proof/Laws/PerInstr.lean ====
section
/-! SUPPORT. The family `TableRow`: the word a command is encoded to selects the row of the opcode map that carries
the command's mnemonic (30_encoding.md R85). One lemma per command. -/

namespace Sys2Proof.Laws

/-- A command's word selects a row of the opcode map with the command's mnemonic (30_encoding.md R85). -/
def TableRow.Statement (i : Instr) : Prop :=
  ∃ r ∈ opcodeRows, r.mnemonic = i.mnemonic ∧ r.selects (encodeCmd i) = true

theorem TableRow.nop : TableRow.Statement .nop :=
  ⟨⟨"NOP", 0x00000000, 0xFFFFFFFF⟩, by simp [opcodeRows], rfl, by decide⟩

/-- The word of `CRC_ACC b` as a number (30_encoding.md R81, R85). -/
theorem crcAcc_selects (b : Byte) :
    OpcodeRow.selects ⟨"CRC_ACC", 0x00000001, 0xFFFF00FF⟩ (encodeCmd (.crcAcc b)) = true := by
  revert b
  decide

theorem TableRow.crcAcc (b : Byte) : TableRow.Statement (.crcAcc b) :=
  ⟨⟨"CRC_ACC", 0x00000001, 0xFFFF00FF⟩, by simp [opcodeRows], rfl, crcAcc_selects b⟩

theorem TableRow.crcExtend : TableRow.Statement .crcExtend :=
  ⟨⟨"CRC_EXTEND", 0x00000002, 0xFFFFFFFF⟩, by simp [opcodeRows], rfl, by decide⟩

theorem TableRow.crcClear : TableRow.Statement .crcClear :=
  ⟨⟨"CRC_CLEAR", 0x00000003, 0xFFFFFFFF⟩, by simp [opcodeRows], rfl, by decide⟩

theorem TableRow.encode : TableRow.Statement .encode :=
  ⟨⟨"ENCODE", 0x00000004, 0xFFFFFFFF⟩, by simp [opcodeRows], rfl, by decide⟩

theorem TableRow.encodeRaw : TableRow.Statement .encodeRaw :=
  ⟨⟨"ENCODE_RAW", 0x00000014, 0xFFFFFFFF⟩, by simp [opcodeRows], rfl, by decide⟩

theorem TableRow.decode : TableRow.Statement .decode :=
  ⟨⟨"DECODE", 0x00000005, 0xFFFFFFFF⟩, by simp [opcodeRows], rfl, by decide⟩

end Sys2Proof.Laws
end

