-- ==== Sys2Proof/Laws/Run.lean ====
section
/-! SUPPORT. Laws of runs: one step at a time, and what a step is in each of the situations a run meets. -/

namespace Sys2Proof.Machine

@[simp] theorem core_run_zero (s : State) : core.run 0 s = .next s := rfl

/-- A run of any machine takes its first step and goes on. -/
theorem run_succ (M : Host.Core) {s t : M.State} (h : M.step s = .next t) (k : Nat) : M.run (k + 1) s = M.run k t := by
  rw [Host.Core.run, h]

/-- A run of the block takes its first step and goes on. -/
theorem core_run_succ {s t : State} (h : step s = .next t) (k : Nat) : core.run (k + 1) s = core.run k t :=
  run_succ core h k

/-- With no command pending the world outside moves. -/
theorem step_idle {s : State} (h : s.pend = none) : step s = .next (hostTurn s) := by
  simp only [step, stepAgents, h]

/-- A pending command whose count has run out completes. -/
theorem step_due {s : State} {p : Pending} (h : s.pend = some p) (hw : p.wait = 0) :
    step s = completionStep p s := by
  simp [step, stepAgents, h, engineMoves, hw]

/-- A pending command with nothing left to come completes. -/
theorem step_alone {s : State} {p : Pending} (h : s.pend = some p) (he : s.events = []) :
    step s = completionStep p s := by
  simp [step, stepAgents, h, engineMoves, he]

/-- While its count has not run out the world outside moves, and the count goes down. -/
theorem step_waiting {s : State} {p : Pending} (h : s.pend = some p) (he : s.events ≠ []) (hw : p.wait ≠ 0) :
    step s = .next (hostTurn (passHostStep s)) := by
  simp [step, stepAgents, h, engineMoves, he, hw]

/-- A write to `CMD` is accepted by an idle block (20_memory.md R65). -/
theorem busWrite_cmd {s : State} (hp : s.pend = none) (hb : s.status.busy = false) (w : Word) :
    busWrite .b32 (regOffset .cmd) w s = some (acceptCommand w s) := by
  simp [busWrite, hb, transactionTarget_reg, writeTarget, writeReg, hp]

/-- Every write to a busy block is refused (20_memory.md R64). -/
theorem busWrite_busy {s : State} (hb : s.status.busy = true) (size : AccessSize) (a : Offset) (v : Word) :
    busWrite size a v s = none := by
  simp [busWrite, hb]

/-- Reading a register by its offset (20_memory.md R66). -/
theorem busRead_reg (r : RegName) (s : State) :
    busRead .b32 (regOffset r) s = readOkay (readReg r s) := by
  simp only [busRead, transactionTarget_reg, readTarget]

end Sys2Proof.Machine
end

