-- ==== Sys2Proof/Tests/Slice0.lean ====
section
/-! SUPPORT. Tests of the model against 95_test_vectors.md and the words of 30_encoding.md, and for every statement
with hypotheses a theorem `witness_<statement>` that meets them together. -/

namespace Sys2Proof.Tests

-- One theorem after another: a `decide +kernel` waits for the kernel, and each waiting theorem would hold a thread.
set_option Elab.async false

open Sys2Proof Sys2Proof.Machine Sys2Proof.Claims

/-! ### Helpers -/

/-- The next state of an outcome. -/
def nextOf : Host.Outcome State Fault Refusal → Option State
  | .next t => some t
  | .fault _ => none
  | .refused _ => none

/-- One field of the next state. -/
def after {α : Type} (o : Host.Outcome State Fault Refusal) (f : State → α) : Option α := (nextOf o).map f

/-- A state with these inputs, idle, everything else as after reset. -/
def idle (o : Inputs) : State := { State.reset with toInputs := o }

/-- A state in which the command word `w` is pending, `n` host steps before its completion, and `es` to come. -/
def busy (w : Word) (n : Nat) (es : List Event) (s : State) : State := { latchCommand w n s with events := es }

/-- The golden sample of V-ENC-1. -/
def golden : Inputs :=
  { Inputs.reset with
    seq := 1, sysId := 1, latF64Lo := 0x404EA4A9, latF64Hi := 0x4049C113, lonF64Lo := 0x1A36E2EB,
    lonF64Hi := 0xBFC05BC0, alt := 20000, hdg := 9000 }

/-- The frame of V-ENC-1. -/
def goldenFrame : List Byte :=
  [0xFD, 0x1C, 0x00, 0x00, 0x01, 0x01, 0x01, 0x21, 0x00, 0x00, 0x00, 0x00, 0x00, 0x00, 0xE0, 0x8E, 0xB3, 0x1E, 0xD0,
    0x7F, 0xEC, 0xFF, 0x20, 0x4E, 0x00, 0x00, 0x00, 0x00, 0x00, 0x00, 0x00, 0x00, 0x00, 0x00, 0x00, 0x00, 0x28, 0x23,
    0x8B, 0xF6]

/-- Inputs with `bs` in `RXBUF`, `RXLEN = n` and the switches `c`. -/
def received (bs : List Byte) (n : Half) (c : BitVec 3) : Inputs :=
  { Inputs.reset with rxbuf := Memory.writeBytes [] 0 bs, rxLen := n, ctrl := c }

/-- The shortest buffer of the supported type: a 10-byte header with length byte `n`. -/
def header (n t0 : Byte) : List Byte := [0xFD, n, 0, 0, 0, 0, 1, t0, 0, 0]

/-- The values that V-DEC lists: `ERR`, `DEC_SYSID`, `DEC_LAT_E7`, `DEC_LON_E7`, calc, rx. -/
def decoded (s : State) : BitVec 4 × Byte × Int × Int × Half × Half :=
  (s.status.err, s.decSysId, s.decLatE7.toInt, s.decLonE7.toInt, s.decCrcCalc, s.decCrcRx)

/-! ### Well-formedness: each check refuses a term -/

theorem test_wf_refuses_undefined_op :
    CmdFields.opDefined { op := 6, raw := false, res0 := 0, arg := 0, res1 := 0 } = false := by decide

theorem test_wf_refuses_stray_raw :
    CmdFields.rawAllowed { op := 5, raw := true, res0 := 0, arg := 0, res1 := 0 } = false := by decide

theorem test_wf_refuses_stray_arg :
    CmdFields.argAllowed { op := 2, raw := false, res0 := 0, arg := 1, res1 := 0 } = false := by decide

theorem test_wf_refuses_reserved_bits :
    CmdFields.reservedZero { op := 4, raw := false, res0 := 1, arg := 0, res1 := 0 } = false ∧
      CmdFields.reservedZero { op := 1, raw := false, res0 := 0, arg := 0, res1 := 1 } = false := by decide

theorem test_wf_refuses_fields :
    CmdFields.wellFormed { op := 15, raw := true, res0 := 7, arg := 255, res1 := 0xFFFF } = false ∧
      CmdFields.wellFormed { op := 4, raw := true, res0 := 0, arg := 0, res1 := 0 } = true := by decide

theorem test_wf_refuses_buffer_words :
    HostReg.wellFormed (.txWord 10) = false ∧ HostReg.wellFormed (.txWord 9) = true ∧
      HostReg.wellFormed (.rxWord 67) = false ∧ HostReg.wellFormed (.rxWord 66) = true := by decide

theorem test_wf_refuses_ldrx :
    HostLine.wellFormed (.ldrx []) = false ∧ HostLine.wellFormed (.ldrx (List.replicate 269 0)) = false ∧
      HostLine.wellFormed (.ldrx (List.replicate 268 0)) = true := by decide +kernel

/-! ### Decoding: the word of every command, written out from 30_encoding.md R80 and R85 -/

theorem test_decode_nop : decodeCmd 0b00000000000000000000000000000000 = .ok .nop := by decide

theorem test_decode_crcAcc : decodeCmd 0b00000000000000000011000100000001 = .ok (.crcAcc 0x31) := by decide

theorem test_decode_crcExtend : decodeCmd 0b00000000000000000000000000000010 = .ok .crcExtend := by decide

theorem test_decode_crcClear : decodeCmd 0b00000000000000000000000000000011 = .ok .crcClear := by decide

theorem test_decode_encode : decodeCmd 0b00000000000000000000000000000100 = .ok .encode := by decide

theorem test_decode_encodeRaw : decodeCmd 0b00000000000000000000000000010100 = .ok .encodeRaw := by decide

theorem test_decode_decode : decodeCmd 0b00000000000000000000000000000101 = .ok .decode := by decide

/-- V-DEC-W7, W9, W11, W12, W13. -/
theorem test_decode_illegal :
    decodeCmd 0x00000006 = .error .undefinedOp ∧ decodeCmd 0x00000015 = .error .strayRaw ∧
      decodeCmd 0x00000102 = .error .strayArg ∧ decodeCmd 0x00000024 = .error .reservedBits ∧
      decodeCmd 0x00010001 = .error .reservedBits := by decide

/-- The row `CRC_ACC` as the opcode table numbers its bits, with operand 0xFF. -/
theorem test_decodeTableWord : decodeTableWord 32 0xFF01 = some (.crcAcc 0xFF) ∧ decodeTableWord 32 6 = none := by
  decide

/-! ### Vectors of 95_test_vectors.md -/

/-- V-CRC-11 and V-CRC-12. -/
theorem test_crc_check_value : checksumOf checkBytes = 0x2189 ∧ crcBytes 0xFFFF checkBytes = 0x6F91 := by decide

/-- V-SC-1, V-SC-8, V-SC-11, V-SC-14, V-SC-15. -/
theorem test_scale :
    scale 0x4049C113404EA4A9 = some 0x1EB38EE0 ∧ scale 0x3E8421F5F40D8376 = some 1 ∧
      scale 0x4000000530C168EB = some 20000098 ∧ scale 0x406AD7F29ABCAF48 = none ∧
      scale 0xC06AD7F29ABCAF48 = some 0x80000000 := by decide +kernel

/-- V-SC-17, V-SC-18, V-SC-20. -/
theorem test_scale_range :
    scale 0x7FF8000000000000 = none ∧ scale 0x7FF0000000000000 = none ∧ scale 0x7EA2AA4F4A405BE2 = none := by
  decide +kernel

/-- The quotients listed under 2.6. -/
theorem test_degrees :
    degreesOf 1 = 0x3E7AD7F29ABCAF48 ∧ degreesOf 0xFFFFFFFF = 0xBE7AD7F29ABCAF48 ∧
      degreesOf 20000098 = 0x4000000523556F9E := by decide +kernel

/-- V-ENC-1: the frame with `COMP_ID = 1`. -/
theorem test_frame_golden : frameBytes 1 golden 0x1EB38EE0 0xFFEC7FD0 = goldenFrame := by decide +kernel

/-- V-ENC-5: `TIME = 0x12345678`, `COMP_ID = 190`. -/
theorem test_frame_checksum_time :
    frameChecksum 190 { golden with time := 0x12345678 } 0x1EB38EE0 0xFFEC7FD0 = 0x5D1F := by decide +kernel

/-! ### One instruction, one step -/

/-- V-CMD-1. -/
theorem test_nop_status :
    after (exec .nop { State.reset with status := { busy := false, done := true, err := 3 } })
      (fun t => t.status.toWord) = some 0x02 := by decide

/-- V-CMD-2. -/
theorem test_crcClear : after (exec .crcClear (idle { golden with crc := 0x2189 })) (·.crc) = some 0 := by decide

/-- V-CMD-4. -/
theorem test_crcAcc : after (exec (.crcAcc 0xFF) (idle { golden with crc := 0xFFFF })) (·.crc) = some 0x00FF := by
  decide

/-- V-CMD-6. -/
theorem test_crcExtend : after (exec .crcExtend (idle { golden with crc := 0x2189 })) (·.crc) = some 0xF6A6 := by
  decide

/-- V-ENC-1: what the free `COMP_ID` does not enter. -/
theorem test_encode_golden :
    after (exec .encode (idle golden)) (fun t => (t.latE7, t.lonE7, t.seq, t.status.toWord)) =
      some (0x1EB38EE0, 0xFFEC7FD0, 1, 0x02) := by decide +kernel

/-- V-ENC-9: a NaN latitude, with `SEQ_AUTO = 1`. -/
theorem test_encode_nan :
    after (exec .encode (idle { golden with latF64Hi := 0x7FF80000, latF64Lo := 0, ctrl := 7 }))
      (fun t => (t.latE7, t.encCrc, t.seq, t.status.toWord)) = some (0, 0, 1, 0x42) := by decide +kernel

/-- V-ENC-10: `SEQ_AUTO` wraps 255 to 0. -/
theorem test_encodeRaw_seq_wraps :
    after (exec .encodeRaw (idle { golden with seq := 255, ctrl := 7 })) (fun t => (t.seq, t.latE7, t.status.toWord)) =
      some (0, 0, 0x02) := by decide +kernel

/-- V-DEC-1. -/
theorem test_decode_golden :
    after (exec .decode (idle (received goldenFrame 40 3))) decoded =
      some (0, 1, 515084000, -1278000, 0xF68B, 0xF68B) := by decide +kernel

/-- V-DEC-11: the strict policy is off and the length byte says 27. -/
theorem test_decode_mismatch :
    after (exec .decode (idle (received (goldenFrame.set 1 0x1B) 40 1))) decoded =
      some (3, 0, 0, 0, 0xCFF0, 0x8B23) := by decide +kernel

/-- V-DEC-20's frame, shorter than a full payload, is accepted by the lenient policy. -/
theorem test_decode_short_payload :
    after (exec .decode (idle (received
      [0xFD, 0x0C, 0, 0, 7, 9, 1, 0x21, 0, 0, 0, 0, 0, 0, 0, 0x17, 0x5B, 0xCA, 0, 0xD2, 0x49, 0x6B, 2, 0x3D] 24 1)))
      (fun t => (t.decSysId, t.decLatE7.toInt, t.decCrcCalc, t.decLatF64Hi, t.decLonF64Hi, t.status.toWord)) =
      some (9, -900000000, 0x3D02, 0xC0568000, 0x40668000, 0x02) := by decide +kernel

/-- V-DEC-15: the length is judged before the type. -/
theorem test_decode_length_before_type :
    after (exec .decode (idle (received (goldenFrame.set 7 0x20) 11 3))) (fun t => t.status.err) = some 1 := by
  decide +kernel

/-! ### The port, the step, reset -/

/-- V-BUS-4 and V-BUS-5: reserved bits are dropped. -/
theorem test_bus_write_masks :
    (busWrite .b32 0x008 0xFFFFFFFF State.reset).map (busRead .b32 0x008) = some (readOkay 7) ∧
      (busWrite .b32 0x044 0xFFFFFFFF State.reset).map (busRead .b32 0x044) = some (readOkay 0xFFFF) := by
  decide +kernel

/-- V-BUS-7 to V-BUS-11. -/
theorem test_bus_errors :
    busWrite .b32 0x00C 0 State.reset = none ∧ busWrite .b32 0x100 0 State.reset = none ∧
      busRead .b32 0x002 State.reset = readError ∧ busRead .b16 0x004 State.reset = readError ∧
      busRead .b32 0x128 State.reset = readError := by decide +kernel

/-- V-BUS-15. -/
theorem test_bus_rxbuf :
    (busWrite .b32 0x308 0x44332211 State.reset).map (·.rxbuf) =
      some [(264, 0x11), (265, 0x22), (266, 0x33), (267, 0x44)] := by decide +kernel

/-- V-BUS-12 to V-BUS-14. -/
theorem test_bus_while_busy :
    busWrite .b32 0x01C 5 (busy 4 1 [] State.reset) = none ∧ busWrite .b32 0x010 0 (busy 4 1 [] State.reset) = none ∧
      busRead .b32 0x00C (busy 4 1 [] State.reset) = readOkay 1 := by decide +kernel

/-- A placed command word runs in the very next step, also an illegal one (V-DEC-W7). -/
theorem test_step_runs_placed_word :
    after (step (State.reset.withFetchWord 32 0x101)) (fun t => (t.crc, t.status.toWord, t.pend)) =
        some (0x1189, 0x02, none) ∧
      after (step (State.reset.withFetchWord 32 0x006)) (fun t => (t.crc, t.status.toWord, t.pend)) =
        some (0, 0x52, none) := by decide +kernel

/-- V-RST-1: a reset discards the pending command. -/
theorem test_reset_discards :
    after (step (busy 4 1 [.reset] (idle golden))) (fun t => (t.pend, t.status.toWord, t.ctrl, t.sysId)) =
      some (none, 0, 3, 0) := by decide +kernel

/-- `LDF64` and `LDRX` as P2 writes them out. -/
theorem test_expansion :
    expandProgram [.ldf64 .lat 0x4049C113404EA4A9, .ldrx [1, 2, 3, 4, 5]] =
      [.write .b32 0x024 0x404EA4A9, .write .b32 0x028 0x4049C113, .write .b32 0x200 0x04030201,
        .write .b32 0x204 0x00000005] := by decide +kernel

/-! ### Witnesses: for each statement with hypotheses, operands and states that meet them together -/

theorem witness_DecodeOfEncodeIsIdentity :
    Instr.wellFormed (.crcAcc 0xFF) = true ∧ Instr.wellFormed .nop = true := by decide

theorem witness_EachCommandHasOneWord : decodeCmd 0x0000FF01 = .ok (.crcAcc 0xFF) := by decide

/-- A word that selects a row, one that is a command, and one that selects no row. -/
theorem witness_DecoderFollowsOpcodeMap :
    (∃ r ∈ opcodeRows, (0x0000FF01 : Word) &&& r.mask = r.pattern) ∧ decodeCmd 0x00000014 = .ok .encodeRaw ∧
      decodeCmd 0x00000015 = .error .strayRaw ∧ ∀ r ∈ opcodeRows, (0x00000015 : Word) &&& r.mask ≠ r.pattern := by
  decide +kernel

theorem witness_LegalWordsAreCounted :
    (∀ b, Instr.encodeRaw ≠ .crcAcc b) ∧ decodeCmd 0x00000014 = .ok .encodeRaw ∧
      decodeCmd 0x00000001 = .ok (.crcAcc 0x00) :=
  ⟨fun _ h => Instr.noConfusion h, by decide, by decide⟩

/-- One word for each of the four cases, an idle state, and a pending illegal word. -/
theorem witness_IllegalWordsCompleteWithoutEffect :
    6 ≤ ((0x00000006 : Word).extractLsb' 0 4).toNat ∧
      ((0x00000010 : Word).getLsbD 4 = true ∧ (0x00000010 : Word).extractLsb' 0 4 ≠ 4) ∧
      ((0x00000100 : Word).extractLsb' 8 8 ≠ 0 ∧ (0x00000100 : Word).extractLsb' 0 4 ≠ 1) ∧
      (0x00000024 : Word).extractLsb' 5 3 ≠ 0 ∧ (0x00010001 : Word).extractLsb' 16 16 ≠ 0 ∧
      State.reset.pend = none ∧ State.reset.status.busy = false ∧
      (busy 0x00000006 0 [] State.reset).pend =
        some { word := 0x00000006, inputs := Inputs.reset, wait := 0 } ∧
      decodeCmd 0x00000006 = .error .undefinedOp := by decide +kernel

/-- Two buffers that differ in one covered byte, the first and the last of the range. -/
theorem witness_ChecksumLaws :
    (1 ≤ 1 ∧ 1 ≤ 9 + 28 ∧ Memory.read [(1, 28)] 1 ≠ Memory.read [(1, 29)] 1 ∧
        ∀ j, j ≠ 1 → Memory.read [(1, 28)] j = Memory.read [(1, 29)] j) ∧
      1 ≤ 37 ∧ 37 ≤ 9 + 28 ∧ Memory.read [(37, 1)] 37 ≠ Memory.read [] 37 ∧
        ∀ j, j ≠ 37 → Memory.read [(37, 1)] j = Memory.read [] j := by
  refine ⟨⟨by decide, by decide, by decide, ?_⟩, by decide, by decide, by decide, ?_⟩ <;>
    · intro j hj
      simp [Memory.read, Ne.symm hj]

theorem witness_FrameCommandsIgnoreCrc :
    Instr.decode = .encode ∨ Instr.decode = .encodeRaw ∨ Instr.decode = .decode := by decide

theorem witness_IntegersConvertExactly :
    |(9007199254740991 : ℤ)| < 2 ^ 53 ∧ |(-9007199254740991 : ℤ)| < 2 ^ 53 := by decide

/-- Two finite factors with a finite product, and two whose product overflows. -/
theorem witness_ProductIsCorrectlyRounded :
    f64IsFinite 0x4049C113404EA4A9 = true ∧ f64IsFinite coordScale = true ∧
      f64IsFinite (mulRne 0x4049C113404EA4A9 coordScale) = true ∧ f64IsFinite 0x7EA2AA4F4A405BE2 = true ∧
      f64IsInf (mulRne 0x7EA2AA4F4A405BE2 coordScale) = true := by decide +kernel

theorem witness_ScaleTruncatesTowardZero : scale 0xC000000530C168EB = some 0xFECED29E := by decide +kernel

/-- The value of a positive pattern, with the number of units in 1 kept as one factor. -/
theorem f64Value_pos {x : F64} (hs : f64Sign x = false) :
    ∃ n : ℕ, 0 < n ∧ n = 2 ^ 1074 ∧ f64Value x = (f64Units x : ℚ) / n :=
  ⟨2 ^ 1074, Nat.two_pow_pos 1074, rfl, by
    simp only [f64Value, hs, Bool.false_eq_true, if_false, one_mul, Nat.cast_pow, Nat.cast_ofNat]⟩

/-- The value of a pattern that is a natural number. -/
theorem f64Value_of {x : F64} {k : Nat} (hs : f64Sign x = false) (hn : f64Units x = k * 2 ^ 1074) :
    f64Value x = k := by
  obtain ⟨n, h0, he, hv⟩ := f64Value_pos hs
  rw [hv, hn, ← he, Nat.cast_mul, mul_div_assoc, div_self (Nat.cast_ne_zero.2 h0.ne'), mul_one]

/-- A pattern below a fraction `1 / d`. -/
theorem f64Value_lt {x : F64} {d : Nat} (hd : 0 < d) (hs : f64Sign x = false) (hn : f64Units x * d < 2 ^ 1074) :
    |f64Value x| < 1 / (d : ℚ) := by
  obtain ⟨n, h0, he, hv⟩ := f64Value_pos hs
  rw [← he] at hn
  clear he
  have h1 : (f64Units x : ℚ) * d < n := by exact_mod_cast hn
  have h2 : (0 : ℚ) < d := by exact_mod_cast hd
  have h3 : (0 : ℚ) < n := by exact_mod_cast h0
  rw [hv, abs_of_nonneg (by positivity), div_lt_div_iff₀ h3 h2]
  linarith

theorem value_90 : f64Value 0x4056800000000000 = 90 := by
  exact_mod_cast f64Value_of (k := 90) (by decide) (by decide +kernel)

theorem value_180 : f64Value 0x4066800000000000 = 180 := by
  exact_mod_cast f64Value_of (k := 180) (by decide) (by decide +kernel)

/-- A coordinate that scales; 180 degrees, the end of the range; and V-SC-9, which scales to 0. -/
theorem witness_ScaleRange :
    scale 0x406AD7F29A86FF63 = some 0x7FFFFFFF ∧ f64IsFinite 0x4066800000000000 = true ∧
      |f64Value 0x4066800000000000| ≤ 180 ∧ f64IsFinite 0x3E45798EE2308C3A = true ∧
      |f64Value 0x3E45798EE2308C3A| < 1 / 10 ^ 7 ∧ |f64Value (mulRne 0x3E45798EE2308C3A coordScale)| < 1 := by
  refine ⟨by decide +kernel, by decide, by rw [value_180]; norm_num, by decide, ?_, ?_⟩
  · exact_mod_cast f64Value_lt (d := 10 ^ 7) (by decide) (by decide) (by decide +kernel)
  · simpa using f64Value_lt (x := mulRne 0x3E45798EE2308C3A coordScale) (d := 1) (by decide) (by decide +kernel)
      (by decide +kernel)

theorem witness_ScaledCoordinateErrorBound : scale 0x4000000530C168EB = some 0x01312D62 := by decide +kernel

/-- Two coordinates that scale; a NaN; an infinity. -/
theorem witness_EncodeFollowsItsRule :
    Memory.wf (idle golden).txbuf = true ∧ scale (idle golden).operands.latF64 = some 0x1EB38EE0 ∧
      scale (idle golden).operands.lonF64 = some 0xFFEC7FD0 ∧
      scale (idle { golden with latF64Hi := 0x7FF80000, latF64Lo := 0 }).operands.latF64 = none ∧
      scale (idle { golden with lonF64Hi := 0x7FF00000, lonF64Lo := 0 }).operands.lonF64 = none ∧
      f64IsNan 0x7FF8000000000000 = true ∧ f64IsInf 0xFFF0000000000000 = true := by decide +kernel

theorem witness_EncodeRawFollowsItsRule : Memory.wf (idle golden).txbuf = true := by decide

/-- 90 degrees north, 180 degrees east: the ends of both ranges. -/
theorem witness_GeographicCoordinatesEncode :
    ∃ s : State, f64IsFinite s.operands.latF64 = true ∧ |f64Value s.operands.latF64| ≤ 90 ∧
      f64IsFinite s.operands.lonF64 = true ∧ |f64Value s.operands.lonF64| ≤ 180 := by
  refine ⟨idle { golden with latF64Hi := 0x40568000, latF64Lo := 0, lonF64Hi := 0x40668000, lonF64Lo := 0 }, ?_⟩
  have hlat : (0x40568000 : Word) ++ (0 : Word) = (0x4056800000000000 : F64) := by decide
  have hlon : (0x40668000 : Word) ++ (0 : Word) = (0x4066800000000000 : F64) := by decide
  simp only [idle, State.operands, State.reset, Inputs.latF64, Inputs.lonF64, hlat, hlon, value_90, value_180]
  refine ⟨by decide, by norm_num, by decide, by norm_num⟩

/-- Two states with equal operands of `ENCODE` that differ elsewhere, in `TXBUF` too. -/
theorem witness_FrameDependsOnOperandsOnly :
    let s := idle golden
    let s' : State := { idle { golden with crc := 5, rxLen := 9 } with txbuf := [(3, 7), (39, 1)] }
    Memory.wf s.txbuf = true ∧ Memory.wf s'.txbuf = true ∧
      s.operands.seq = s'.operands.seq ∧ s.operands.sysId = s'.operands.sysId ∧
      s.operands.time = s'.operands.time ∧
      s.operands.latF64Lo = s'.operands.latF64Lo ∧ s.operands.latF64Hi = s'.operands.latF64Hi ∧
      s.operands.lonF64Lo = s'.operands.lonF64Lo ∧ s.operands.lonF64Hi = s'.operands.lonF64Hi ∧
      s.operands.alt = s'.operands.alt ∧ s.operands.relAlt = s'.operands.relAlt ∧
      s.operands.vx = s'.operands.vx ∧ s.operands.vy = s'.operands.vy ∧ s.operands.vz = s'.operands.vz ∧
      s.operands.hdg = s'.operands.hdg := by decide

/-- Lengths 9, 10 and 11, one below each bound. -/
theorem witness_ShortBuffersAreMalformed :
    (idle (received (header 0 0x21) 9 3)).operands.rxLen.toNat < 10 ∧
      10 ≤ (idle (received (header 0 0x21) 10 3)).operands.rxLen.toNat ∧
      (idle (received (header 0 0x21) 10 3)).operands.rxLen.toNat <
        10 + declared (idle (received (header 0 0x21) 10 3)).operands + 2 ∧
      (idle (received (header 0 0x21) 11 3)).operands.rxLen.toNat <
        10 + declared (idle (received (header 0 0x21) 11 3)).operands + 2 := by decide +kernel

/-- Length 12 with length byte 0 and message type 32. -/
theorem witness_OtherTypesAreUnsupported :
    ∃ s : State, LongEnough s.operands ∧ ¬ SupportedType s.operands := by
  refine ⟨idle (received (header 0 0x20) 12 3), ?_, ?_⟩
  · unfold LongEnough
    decide +kernel
  · unfold SupportedType
    decide +kernel

/-- Length byte 28 under the strict policy, and 27 (rejected), 12 under the lenient one, and 11 (rejected). -/
theorem witness_LengthPolicyDecides :
    (∃ s : State, LongEnough s.operands ∧ SupportedType s.operands ∧ LengthAccepted s.operands) ∧
      (∃ s : State, LongEnough s.operands ∧ SupportedType s.operands ∧ ¬ LengthAccepted s.operands) ∧
      (∃ s : State, LongEnough s.operands ∧ SupportedType s.operands ∧ LengthAccepted s.operands ∧
        s.operands.ctrl.getLsbD 1 = false) ∧
      ∃ s : State, LongEnough s.operands ∧ SupportedType s.operands ∧ ¬ LengthAccepted s.operands ∧
        s.operands.ctrl.getLsbD 1 = false := by
  refine ⟨⟨idle (received (header 28 0x21) 40 3), ?_⟩, ⟨idle (received (header 27 0x21) 40 3), ?_⟩,
    ⟨idle (received (header 12 0x21) 24 1), ?_⟩, ⟨idle (received (header 11 0x21) 24 1), ?_⟩⟩ <;>
    · unfold LongEnough SupportedType LengthAccepted
      decide +kernel

/-- The golden frame (equal checksums), the same with a byte changed, and that without verification. -/
theorem witness_DecodeRecoversTheSample :
    (∃ s : State, LongEnough s.operands ∧ SupportedType s.operands ∧ LengthAccepted s.operands ∧
        frameSum s.operands.rxbuf (declared s.operands) = receivedSum s.operands) ∧
      (∃ s : State, LongEnough s.operands ∧ SupportedType s.operands ∧ LengthAccepted s.operands ∧
        s.operands.ctrl.getLsbD 0 = true ∧
        frameSum s.operands.rxbuf (declared s.operands) ≠ receivedSum s.operands) ∧
      ∃ s : State, LongEnough s.operands ∧ SupportedType s.operands ∧ LengthAccepted s.operands ∧
        s.operands.ctrl.getLsbD 0 = false := by
  refine ⟨⟨idle (received goldenFrame 40 3), ?_⟩, ⟨idle (received (goldenFrame.set 20 0xED) 40 3), ?_⟩,
    ⟨idle (received (goldenFrame.set 20 0xED) 40 2), ?_⟩⟩ <;>
    · unfold LongEnough SupportedType LengthAccepted
      decide +kernel

/-- Two buffers that differ in byte 0 and after the frame, of one length and of two. -/
theorem witness_DecodeReadsOnlyTheFrame :
    let s := idle (received goldenFrame 40 3)
    let s' := idle (received (goldenFrame.set 0 0x00 ++ [1]) 40 7)
    let s'' := idle (received (goldenFrame.set 0 0x00 ++ [1]) 300 3)
    s.operands.rxLen = s'.operands.rxLen ∧
      (LongEnough s.operands ∧ 10 + declared s.operands + 2 ≤ s''.operands.rxLen.toNat) ∧
      (∀ i, 1 ≤ i → i < min s.operands.rxLen.toNat (12 + declared s.operands) →
        Memory.read s.operands.rxbuf i = Memory.read s'.operands.rxbuf i ∧
          Memory.read s.operands.rxbuf i = Memory.read s''.operands.rxbuf i) ∧
      (s.operands.ctrl.getLsbD 0 = s'.operands.ctrl.getLsbD 0 ∧ s.operands.ctrl.getLsbD 1 = s'.operands.ctrl.getLsbD 1 ∧
        s.operands.ctrl.getLsbD 0 = s''.operands.ctrl.getLsbD 0 ∧
        s.operands.ctrl.getLsbD 1 = s''.operands.ctrl.getLsbD 1) ∧
      SameResults s s' ∧ SameResults s s'' := by
  intro s s' s''
  refine ⟨by decide +kernel, ⟨by unfold LongEnough; decide +kernel, by decide +kernel⟩, ?_, by decide +kernel,
    by unfold SameResults; decide +kernel, by unfold SameResults; decide +kernel⟩
  have h : ∀ i < 40, 1 ≤ i →
      Memory.read s.operands.rxbuf i = Memory.read s'.operands.rxbuf i ∧
        Memory.read s.operands.rxbuf i = Memory.read s''.operands.rxbuf i := by decide +kernel
  have hm : min s.operands.rxLen.toNat (12 + declared s.operands) = 40 := by decide +kernel
  intro i hi hlt
  exact h i (by omega) hi

/-- The golden sample encodes, and its frame is in the receive buffer. -/
theorem witness_DecodeOfEncodedFrameRoundTrips :
    ∃ (s t : State) (la lo : Word) (m : Memory), Memory.wf s.txbuf = true ∧
      scale s.operands.latF64 = some la ∧ scale s.operands.lonF64 = some lo ∧ exec .encode s = .next t ∧
      ∀ i, i < 40 → Memory.read m i = Memory.read t.txbuf i := by
  have hlat : scale (idle golden).operands.latF64 = some 0x1EB38EE0 := by decide +kernel
  have hlon : scale (idle golden).operands.lonF64 = some 0xFFEC7FD0 := by decide +kernel
  obtain ⟨t, ht⟩ : ∃ t, exec .encode (idle golden) = .next t := by
    simp only [exec, execEncode, hlat, hlon]
    exact ⟨_, rfl⟩
  exact ⟨idle golden, t, 0x1EB38EE0, 0xFFEC7FD0, t.txbuf, by decide, hlat, hlon, ht, fun _ _ => rfl⟩

/-- Codes 4, 1 and 3. -/
theorem witness_ErrorsArePrecise :
    after (exec .encode (idle { golden with latF64Hi := 0x7FF80000, latF64Lo := 0 })) (fun t => t.status.err) =
        some 4 ∧
      after (exec .decode (idle golden)) (fun t => t.status.err) = some 1 ∧
      after (exec .decode (idle (received (goldenFrame.set 20 0xED) 40 3))) (fun t => t.status.err) = some 3 := by
  decide +kernel

/-- A pending command, and a pending illegal word, with nothing left to come and with the count run out; one with a
host step still to pass; and idle states with and without an event. -/
theorem witness_StepRunsThePendingCommand :
    EngineDue ⟨0x101, Inputs.reset, 5⟩ (busy 0x101 5 [] State.reset) ∧
      EngineDue ⟨0x101, Inputs.reset, 0⟩ (busy 0x101 0 [.waitIdle] State.reset) ∧ decodeCmd 0x101 = .ok (.crcAcc 1) ∧
      EngineDue ⟨0x006, Inputs.reset, 5⟩ (busy 0x006 5 [] State.reset) ∧
      EngineDue ⟨0x006, Inputs.reset, 0⟩ (busy 0x006 0 [.reset] State.reset) ∧
      decodeCmd 0x006 = .error .undefinedOp ∧
      ((busy 0x101 1 [.reset] State.reset).pend = some ⟨0x101, Inputs.reset, 1⟩ ∧ 1 ≠ 0 ∧
        (busy 0x101 1 [.reset] State.reset).events = .reset :: []) ∧
      (({ State.reset with events := [.waitIdle] } : State).pend = none ∧
        ({ State.reset with events := [.waitIdle] } : State).events = .waitIdle :: []) ∧
      State.reset.pend = none ∧ State.reset.events = [] :=
  ⟨⟨rfl, Or.inl rfl⟩, ⟨rfl, Or.inr rfl⟩, by decide, ⟨rfl, Or.inl rfl⟩, ⟨rfl, Or.inr rfl⟩, by decide,
    ⟨rfl, by decide, rfl⟩, ⟨rfl, rfl⟩, rfl, rfl⟩

theorem witness_CmdWriteLatchesTheCommand :
    State.reset.pend = none ∧ State.reset.status.busy = false ∧ decodeCmd 0xFFFFFFFF = .error .reservedBits := by
  decide

/-- A command accepted in the state after reset is pending in a state with the invariant. -/
theorem busy_inv (w : Word) (n : Nat) (es : List Event) : (busy w n es State.reset).Inv where
  busy_iff_pending := rfl
  not_busy_and_done := rfl
  err_not_reserved := Nat.zero_le 5
  err_zero_unless_done := fun _ => rfl
  snapshot_is_live := rfl
  txbuf_wf := rfl
  txbuf_within := rfl
  rxbuf_wf := rfl
  rxbuf_within := rfl
  encCrc_is_sent := by show (0 : Half) = Memory.half [] 38; decide
  decLat_in_degrees := by show (0 : Word) ++ (0 : Word) = degreesOf 0; decide +kernel
  decLon_in_degrees := by show (0 : Word) ++ (0 : Word) = degreesOf 0; decide +kernel

theorem witness_WritesWhileBusyAreRefused :
    (busy 4 1 [] State.reset).Inv ∧ (busy 4 1 [] State.reset).status.busy = true ∧ (0 < 10 ∧ 9 < 10) ∧ 0 < 67 ∧ 66 < 67 :=
  ⟨busy_inv 4 1 [], rfl, by decide⟩

theorem witness_IllegalTransactionsAreRefused :
    AccessSize.b8 ≠ .b32 ∧ AccessSize.b16 ≠ .b32 ∧ AccessSize.b64 ≠ .b32 ∧ (0x002 : Offset).toNat % 4 ≠ 0 ∧
      (0xFFF : Offset).toNat % 4 ≠ 0 := by decide

/-- Both ends of each of the three holes. -/
theorem witness_UnmappedOffsetsAreRefused :
    (0x080 ≤ (0x080 : Offset).toNat ∧ (0x0FF : Offset).toNat ≤ 0x0FF) ∧
      (0x128 ≤ (0x128 : Offset).toNat ∧ (0x1FF : Offset).toNat ≤ 0x1FF) ∧
      0x30C ≤ (0x30C : Offset).toNat ∧ 0x30C ≤ (0xFFF : Offset).toNat := by decide

/-- The first and the last read-only register, and both ends of `TXBUF`. -/
theorem witness_ReadOnlyWritesAreRefused :
    (0x000 : Offset) ∈
        ([0x000, 0x004, 0x00C, 0x054, 0x05C, 0x060, 0x064, 0x068, 0x06C, 0x070, 0x074, 0x078, 0x07C] : List Offset) ∧
      (0x07C : Offset) ∈
        ([0x000, 0x004, 0x00C, 0x054, 0x05C, 0x060, 0x064, 0x068, 0x06C, 0x070, 0x074, 0x078, 0x07C] : List Offset) ∧
      0x100 ≤ (0x100 : Offset).toNat ∧ (0x127 : Offset).toNat ≤ 0x127 := by decide

theorem witness_ReadsFollowTheMap :
    (0 < 10 ∧ 9 < 10) ∧ (0 < 67 ∧ 66 < 67) ∧ ⟨.status, 0x00C, .ro, 0x000000F3⟩ ∈ registerTable := by decide

theorem witness_RegistersStoreOnlyBitsUsed :
    regAccess .ctrl = .rw ∧ regAccess .rxLen = .rw ∧ State.reset.status.busy = false ∧
      RegName.crc ≠ RegName.ctrl ∧ ⟨.decCrcRx, 0x07C, .ro, 0x0000FFFF⟩ ∈ registerTable := by decide

theorem witness_RxWordsAreLittleEndian :
    0 < 67 ∧ 66 < 67 ∧ State.reset.status.busy = false ∧ Memory.wf State.reset.rxbuf = true := by decide

/-- A host step while a command stays pending, and one with none pending. -/
theorem witness_ResultsChangeOnlyAtCompletion :
    (∃ s t : State, step s = .next t ∧ t.pend ≠ none ∧ s.events.head? ≠ some .reset) ∧
      ∃ s t : State, step s = .next t ∧ s.pend = none ∧ s.events.head? ≠ some .reset :=
  ⟨⟨busy 5 1 [.waitIdle] State.reset, _, rfl, nofun, nofun⟩, ⟨State.reset, _, rfl, rfl, nofun⟩⟩

theorem witness_PendingCommandsEnd :
    (busy 5 2 [.waitIdle] State.reset).pend = some { word := 5, inputs := Inputs.reset, wait := 2 } := rfl

theorem witness_WaitFinishes :
    (busy 5 2 [.waitIdle] State.reset).Inv ∧ (busy 5 2 [.waitIdle] State.reset).events = .waitIdle :: [] :=
  ⟨busy_inv 5 2 _, rfl⟩

/-- One byte, and the 268 of the whole buffer. -/
theorem witness_LdrxLoadsTheBytes :
    (HostLine.ldrx [0xFD]).wellFormed = true ∧ (HostLine.ldrx (List.replicate 268 0xFD)).wellFormed = true ∧
      State.reset.pend = none ∧ State.reset.status.busy = false ∧ Memory.wf State.reset.rxbuf = true ∧
      ({ State.reset with events := expandLine (.ldrx [0xFD]) ++ [] } : State).events =
        expandLine (.ldrx [0xFD]) ++ [] := by decide +kernel

theorem witness_CmdwHasTheCommandsEffect :
    (idle golden).pend = none ∧ (idle golden).status.busy = false ∧
      ({ idle golden with events := expandLine (.cmdw .encode) ++ [.waitIdle] } : State).events =
        expandLine (.cmdw .encode) ++ [.waitIdle] := by decide +kernel

/-- A step from a pending `DECODE`, and one from the state after reset. -/
theorem witness_InvariantKeptByEveryStep :
    (∃ t, (busy 5 0 [] State.reset).Inv ∧ step (busy 5 0 [] State.reset) = .next t) ∧
      ∃ t, (busy 5 1 [.waitIdle] State.reset).Inv ∧ step (busy 5 1 [.waitIdle] State.reset) = .next t := by
  refine ⟨⟨complete .malformedFrame (busy 5 0 [] State.reset), busy_inv 5 0 [], ?_⟩, ⟨_, busy_inv 5 1 _, rfl⟩⟩
  rfl

/-- A write that takes effect and one that is refused. -/
theorem witness_TurnsAreBusTransactions :
    busWrite .b32 0x01C 5 State.reset = some { State.reset with sysId := 5 } ∧
      busWrite .b32 0x00C 5 State.reset = none := by decide +kernel

end Sys2Proof.Tests
end

/-! ### The register port: what a read returns after a write, and what a read can be (10_state.md R20 to R30)

The layer of facts about `readReg`, `writeReg` and the register map, and the two claims that rest on it. -/

namespace Sys2Proof.Machine

open Sys2Proof.Claims

/-! #### Narrow values on the 32-bit bus -/

/-- Storing the low `n` bits and reading them back zero-extended is masking (10_state.md R28). -/
theorem zeroExtend_extractLsb' (n : Nat) (v : Word) :
    (v.extractLsb' 0 n).zeroExtend 32 = v &&& (BitVec.allOnes n).zeroExtend 32 := by
  ext i hi
  simp [hi, BitVec.getElem_setWidth, BitVec.getLsbD_extractLsb', Bool.and_comm]

/-- A zero-extended `n`-bit value has no bit outside the low `n`. -/
theorem zeroExtend_and_not_mask {n : Nat} (x : BitVec n) :
    x.zeroExtend 32 &&& ~~~ (BitVec.allOnes n).zeroExtend 32 = (0 : Word) := by
  ext i hi
  simpa [BitVec.getElem_setWidth] using x.lt_of_getLsbD

/-- Bits [3:2] and [31:8] of `STATUS` read 0 (10_state.md R28, R29). -/
theorem status_reserved (st : Status) : st.toWord &&& ~~~ (0x000000F3 : Word) = 0 := by
  obtain ⟨busy, done, err⟩ := st
  revert err
  cases busy <;> cases done <;> decide +kernel

/-! #### The registers that hold no changing value -/

@[simp] theorem readReg_id0 (s : State) : readReg .id0 s = 0xFD681C00 + Config.compId.zeroExtend 32 :=
  id0Word_eq Config.compId

@[simp] theorem readReg_id1 (s : State) : readReg .id1 s = 0x28000021 := rfl

@[simp] theorem readReg_cmd (s : State) : readReg .cmd s = 0x00000000 := rfl

/-! #### Reserved bits -/

/-- Reserved bits of a register read 0 (10_state.md R28). -/
theorem readReg_reserved (r : RegName) (s : State) : readReg r s &&& ~~~ regBitsUsed r = 0 := by
  cases r
  case ctrl => exact zeroExtend_and_not_mask s.ctrl
  case status => exact status_reserved s.status
  case seq | sysId | decSysId => exact zeroExtend_and_not_mask (n := 8) _
  case crc | vx | vy | vz | hdg | encCrc | rxLen | decCrcCalc | decCrcRx =>
    exact zeroExtend_and_not_mask (n := 16) _
  all_goals exact BitVec.and_zero

/-! #### Writes to a read-write register -/

/-- A write to a register of an idle block is decided by the register alone (20_memory.md R61 to R66). -/
theorem busWrite_reg {s : State} (hb : s.status.busy = false) (r : RegName) (v : Word) :
    busWrite .b32 (regOffset r) v s = writeReg r v s := by
  simp [busWrite, hb, writeTarget]

/-- A read-write register never refuses a write (10_state.md R28). -/
theorem writeReg_rw {r : RegName} (hr : regAccess r = .rw) (v : Word) (s : State) :
    ∃ t, writeReg r v s = some t := by
  cases r
  case id0 | id1 | status | cmd | encCrc | decSysId | decLatE7 | decLonE7 | decLatF64Lo | decLatF64Hi | decLonF64Lo
      | decLonF64Hi | decCrcCalc | decCrcRx => cases hr
  all_goals exact ⟨_, rfl⟩

/-- What a read-write register reads after a write to it: the bits used (10_state.md R28). -/
theorem readReg_writeReg_same {r : RegName} (hr : regAccess r = .rw) {v : Word} {s t : State}
    (h : writeReg r v s = some t) : readReg r t = v &&& regBitsUsed r := by
  cases r
  case cmd => cases hr
  all_goals cases h
  case ctrl => exact zeroExtend_extractLsb' 3 v
  case seq | sysId => exact zeroExtend_extractLsb' 8 v
  case crc | vx | vy | vz | hdg | rxLen => exact zeroExtend_extractLsb' 16 v
  all_goals exact BitVec.and_allOnes.symm

/-- A write to a read-write register leaves what every other register reads: each has a field of its own. -/
theorem readReg_writeReg_other {r r' : RegName} (hne : r' ≠ r) (hr : regAccess r = .rw) {v : Word} {s t : State}
    (h : writeReg r v s = some t) : readReg r' t = readReg r' s := by
  cases r
  case cmd => cases hr
  all_goals cases h
  all_goals cases r' <;> first | rfl | exact absurd rfl hne

/-- A write to a read-write register changes registers a command reads, and neither `RXBUF` nor anything else. -/
theorem writeReg_rw_frame {r : RegName} (hr : regAccess r = .rw) {v : Word} {s t : State}
    (h : writeReg r v s = some t) : t.rxbuf = s.rxbuf ∧ t = { s with toInputs := t.toInputs } := by
  rcases writeReg_cases h with ⟨-, hframe, hrx⟩ | ⟨hcmd, -, -⟩
  · exact ⟨hrx, hframe⟩
  · subst hcmd
    cases hr

/-! #### The register map as a table -/

/-- Every register has a row in the table (10_state.md R21). -/
theorem exists_registerTable_row (r : RegName) : ∃ row ∈ registerTable, row.reg = r := by
  cases r <;> decide

/-- The access and the bits used are those of the table (10_state.md R21). -/
theorem registerTable_columns :
    ∀ row ∈ registerTable, regAccess row.reg = row.access ∧ regBitsUsed row.reg = row.used := by
  decide

end Sys2Proof.Machine

namespace Sys2Proof.Proofs

open Sys2Proof.Machine

/-- Settles O42: `ID0` and `ID1` are built from the constants of the build alone, and `CMD` is no field. -/
theorem idRegistersAreConstant : Obligations.IdRegistersAreConstant :=
  fun s => ⟨readReg_id0 s, readReg_id1 s, readReg_cmd s⟩

/-- Settles O40, from the read-after-write rules and the frame of `writeReg`. -/
theorem registersStoreOnlyBitsUsed : Obligations.RegistersStoreOnlyBitsUsed := by
  refine ⟨?_, fun s r => readReg_reserved r s, rfl, rfl, exists_registerTable_row, registerTable_columns⟩
  intro s r v hr hb
  obtain ⟨t, ht⟩ := writeReg_rw hr v s
  obtain ⟨hrx, hframe⟩ := writeReg_rw_frame hr ht
  exact ⟨t, (busWrite_reg hb r v).trans ht, readReg_writeReg_same hr ht,
    fun _ hne => readReg_writeReg_other hne hr ht, hrx, hframe⟩

end Sys2Proof.Proofs

/-! ### The register port: which transactions are refused, and what a busy block answers (20_memory.md R60 to R66)

The facts about the address map and about refused transactions, and the claims of 20_memory.md that rest on them. -/

namespace Sys2Proof.Machine

open Sys2Proof.Claims

/-! #### The address map -/

/-- The registers stand below the first hole of the window (10_state.md R21). -/
theorem regOffset_lt (r : RegName) : (regOffset r).toNat < 0x80 := by
  cases r <;> decide

/-- A register the map gives stands at its own offset (10_state.md R21). -/
theorem busTarget_reg {a : Offset} {r : RegName} (h : busTarget a = some (.reg r)) : a = regOffset r := by
  unfold busTarget at h
  split at h
  case h_1 r' hfind =>
    cases h
    exact (by simpa using List.find?_some hfind : regOffset r = a).symm
  case h_2 =>
    split at h
    · cases h
    · split at h <;> cases h

/-- The offsets at which the window holds anything: the registers and the words of the two buffers (10_state.md R21,
R50, R51). -/
theorem busTarget_cases {a : Offset} {b : BusTarget} (h : busTarget a = some b) :
    (∃ r, b = .reg r ∧ a = regOffset r) ∨
      (∃ k, b = .txWord k ∧ 0x100 ≤ a.toNat ∧ a.toNat < 0x128) ∨
      (∃ k, b = .rxWord k ∧ 0x200 ≤ a.toNat ∧ a.toNat < 0x30C) := by
  cases b with
  | reg r => exact .inl ⟨r, rfl, busTarget_reg h⟩
  | txWord k =>
    obtain ⟨hk, hlo, hidx⟩ := busTarget_txWord h
    exact .inr (.inl ⟨k, rfl, hlo, by omega⟩)
  | rxWord k =>
    obtain ⟨hk, hlo, hidx⟩ := busTarget_rxWord h
    exact .inr (.inr ⟨k, rfl, hlo, by omega⟩)

/-- Nothing is mapped in the three holes of the window (20_memory.md R62). -/
theorem busTarget_hole {a : Offset}
    (ha : (0x080 ≤ a.toNat ∧ a.toNat ≤ 0x0FF) ∨ (0x128 ≤ a.toNat ∧ a.toNat ≤ 0x1FF) ∨ 0x30C ≤ a.toNat) :
    busTarget a = none := by
  refine Option.eq_none_iff_forall_ne_some.2 fun b hb => ?_
  rcases busTarget_cases hb with ⟨r, -, rfl⟩ | ⟨k, -, hlo, hhi⟩ | ⟨k, -, hlo, hhi⟩
  · have := regOffset_lt r
    omega
  · omega
  · omega

/-- A transaction of another size or at an unaligned offset reaches nothing (20_memory.md R61). -/
theorem transactionTarget_illegal {size : AccessSize} {a : Offset} (h : size ≠ .b32 ∨ a.toNat % 4 ≠ 0) :
    transactionTarget size a = none :=
  if_neg (not_and_or.2 h)

/-- A transaction at an unmapped offset reaches nothing (20_memory.md R62). -/
theorem transactionTarget_unmapped {a : Offset} (h : busTarget a = none) (size : AccessSize) :
    transactionTarget size a = none := by
  simp [transactionTarget, h]

/-! #### Refused transactions -/

/-- A read leaves its response and changes nothing (20_memory.md R66). -/
theorem takeEvent_read_answered (size : AccessSize) (a : Offset) (rest : List Event) (s : State) :
    takeEvent (.read size a) rest s = answered (busRead size a s) rest s := rfl

/-- A write that is refused leaves the response `ERROR` and changes nothing (20_memory.md R61 to R64). -/
theorem takeEvent_write_refused {size : AccessSize} {a : Offset} {v : Word} {s : State}
    (h : busWrite size a v s = none) (rest : List Event) :
    takeEvent (.write size a v) rest s = answered refusedWrite rest s :=
  takeEvent_write_none h rest

/-- A read is answered with the word it reaches (20_memory.md R66). -/
theorem takeEvent_read_target {size : AccessSize} {a : Offset} {b : BusTarget}
    (h : transactionTarget size a = some b) (rest : List Event) (s : State) :
    takeEvent (.read size a) rest s = answered { code := .okay, data := some (readTarget b s) } rest s := by
  rw [takeEvent_read_answered, busRead, h]
  rfl

/-- A transaction that reaches nothing is refused, whether it reads or writes (20_memory.md R61, R62). -/
theorem takeEvent_no_target {size : AccessSize} {a : Offset} (h : transactionTarget size a = none) (v : Word)
    (rest : List Event) (s : State) :
    takeEvent (.read size a) rest s = answered refusedRead rest s ∧
      takeEvent (.write size a v) rest s = answered refusedWrite rest s := by
  constructor
  · rw [takeEvent_read_answered, busRead, h]
    rfl
  · exact takeEvent_write_refused (by simp [busWrite, h]) rest

/-! #### Read-only targets -/

/-- A read-only register refuses every write (20_memory.md R63). -/
theorem writeReg_ro {r : RegName} (hr : regAccess r = .ro) (v : Word) (s : State) : writeReg r v s = none := by
  refine Option.eq_none_iff_forall_ne_some.2 fun t ht => ?_
  rcases writeReg_cases ht with ⟨hrw, -, -⟩ | ⟨rfl, -, -⟩
  · exact absurd (hr.symm.trans hrw) (by decide)
  · cases hr

/-- A write to the offset of a read-only register is refused (20_memory.md R63). -/
theorem busWrite_ro {r : RegName} (hr : regAccess r = .ro) (v : Word) (s : State) :
    busWrite .b32 (regOffset r) v s = none := by
  simp [busWrite, writeTarget, writeReg_ro hr]

/-- A write to an offset of `TXBUF` is refused, aligned or not (20_memory.md R61, R63). -/
theorem busWrite_txbuf {a : Offset} (hlo : 0x100 ≤ a.toNat) (hhi : a.toNat ≤ 0x127) (size : AccessSize) (v : Word)
    (s : State) : busWrite size a v s = none := by
  refine Option.eq_none_iff_forall_ne_some.2 fun t ht => ?_
  obtain ⟨-, -, -, b, htarget, hwrite⟩ := busWrite_cases ht
  rcases busTarget_cases htarget with ⟨r, -, rfl⟩ | ⟨k, rfl, -, -⟩ | ⟨k, -, hrx, -⟩
  · have := regOffset_lt r
    omega
  · cases hwrite
  · omega

/-- The offsets of the read-only registers are the rows of the register map with access RO (10_state.md R21). -/
theorem readOnly_offsets :
    (allRegs.filter (regAccess · = .ro)).map regOffset =
      [0x000, 0x004, 0x00C, 0x054, 0x05C, 0x060, 0x064, 0x068, 0x06C, 0x070, 0x074, 0x078, 0x07C] := by
  decide

/-! #### Acceptance and the busy block -/

/-- A pending word that is no command completes with `ILLEGAL_COMMAND` (20_memory.md R65, 60_exceptions.md R195). -/
theorem completionStep_illegal {p : Pending} {e : IllegalWord} (h : decodeCmd p.word = .error e) (s : State) :
    completionStep p s = .next (completeIllegal s) := by
  simp [completionStep, h]

/-- While `BUSY = 1` the whole of `STATUS` is as acceptance left it: `DONE = 0`, `ERR = 0` (20_memory.md R64). -/
theorem State.Inv.status_of_busy {s : State} (hinv : s.Inv) (hb : s.status.busy = true) :
    s.status = statusAccepted := by
  have hdone : s.status.done = false := by simpa [hb] using hinv.not_busy_and_done
  have herr : s.status.err = 0 := hinv.err_zero_unless_done hdone
  calc s.status = ⟨s.status.busy, s.status.done, s.status.err⟩ := rfl
    _ = statusAccepted := by rw [hb, hdone, herr]; rfl

theorem statusAccepted_toWord : statusAccepted.toWord = 0x00000001 := by decide

end Sys2Proof.Machine

namespace Sys2Proof.Proofs

open Sys2Proof.Machine

/-- Settles O35: no write passes the busy test, each read reaches its word, and the invariant fixes `STATUS`. -/
theorem writesWhileBusyAreRefused : Obligations.WritesWhileBusyAreRefused := by
  intro s rest hinv hb
  refine ⟨fun size a v => takeEvent_write_refused (busWrite_busy hb size a v) rest,
    fun r => takeEvent_read_target (transactionTarget_reg r) rest s,
    fun k hk => takeEvent_read_target (transactionTarget_tx k hk) rest s,
    fun k hk => takeEvent_read_target (transactionTarget_rx k hk) rest s, ?_⟩
  calc readReg .status s = s.status.toWord := rfl
    _ = statusAccepted.toWord := by rw [hinv.status_of_busy hb]
    _ = 0x00000001 := statusAccepted_toWord

/-- Settles O37: the three holes of the map hold nothing. -/
theorem unmappedOffsetsAreRefused : Obligations.UnmappedOffsetsAreRefused :=
  fun s _ v rest ha => takeEvent_no_target (transactionTarget_unmapped (busTarget_hole ha) .b32) v rest s

/-- Settles O38: the offsets listed are those of the read-only registers, and `TXBUF` takes no write. -/
theorem readOnlyWritesAreRefused : Obligations.ReadOnlyWritesAreRefused := by
  intro s a v rest ha
  apply takeEvent_write_refused
  rcases ha with hreg | ⟨hlo, hhi⟩
  · rw [← readOnly_offsets] at hreg
    obtain ⟨r, hr, rfl⟩ := List.mem_map.1 hreg
    exact busWrite_ro (by simpa using (List.mem_filter.1 hr).2) v s
  · exact busWrite_txbuf hlo hhi .b32 v s

/-- Settles O34: the write reaches `CMD` and is accepted, and an illegal word completes with code 5. -/
theorem cmdWriteLatchesTheCommand : Obligations.CmdWriteLatchesTheCommand := by
  refine ⟨fun s w rest hp hb => ?_, fun s p e he => completionStep_illegal he s⟩
  have haccept : takeEvent (.write .b32 0x010 w) rest s =
      { acceptCommand w s with events := rest, resp := some writeOkay } :=
    takeEvent_write_some (busWrite_cmd hp hb w) rest
  exact ⟨_, _, haccept, acceptCommand_pend w s, rfl, rfl, statusAccepted_toWord, rfl, rfl⟩

/-- Settles O36: an illegal transaction reaches nothing. -/
theorem illegalTransactionsAreRefused : Obligations.IllegalTransactionsAreRefused :=
  fun s _ _ v rest h => takeEvent_no_target (transactionTarget_illegal h) v rest s

end Sys2Proof.Proofs

/-! ### The command word: the opcode map and the illegal words (30_encoding.md R80 to R88)

A word and its five fields carry the same information, a word decodes to a command exactly when it is that command's
word, and a row of the opcode map selects exactly the words of the commands it names. Both claims rest on these three. -/

namespace Sys2Proof.Machine

/-! #### A word and its fields -/

/-- Reading the fields of a word laid out from fields gives the fields back (30_encoding.md R80). -/
@[simp] theorem cmdFields_wordOfFields (f : CmdFields) : cmdFields (wordOfFields f) = f := by
  obtain ⟨hop, hraw, hres0, harg, hres1⟩ := cmdFields_toNat (wordOfFields f)
  have hbool : ∀ b c : Bool, b.toNat = c.toNat → b = c := by decide
  rw [wordOfFields_toNat] at hop hraw hres0 harg hres1
  have := f.op.isLt
  have := Bool.toNat_lt f.raw
  have := f.res0.isLt
  have := f.arg.isLt
  rw [CmdFields.mk.injEq]
  refine ⟨BitVec.eq_of_toNat_eq ?_, hbool _ _ ?_, BitVec.eq_of_toNat_eq ?_, BitVec.eq_of_toNat_eq ?_,
    BitVec.eq_of_toNat_eq ?_⟩ <;> omega

/-- A word is a command's word exactly when its fields are the command's fields (30_encoding.md R80, R85). -/
theorem eq_encodeCmd_iff (w : Word) (i : Instr) : w = encodeCmd i ↔ cmdFields w = instrFields i := by
  constructor
  · rintro rfl
    exact cmdFields_wordOfFields (instrFields i)
  · intro h
    rw [encodeCmd, ← h, wordOfFields_cmdFields]

/-- The mask of the `CRC_ACC` row clears `ARG` and keeps every other field (30_encoding.md R85). -/
theorem wordOfFields_and_crcAccMask (f : CmdFields) :
    wordOfFields f &&& 0xFFFF00FF = wordOfFields { f with arg := 0 } := by
  change (f.res1 ++ f.arg ++ f.res0 ++ BitVec.ofBool f.raw ++ f.op) &&&
      (BitVec.allOnes 16 ++ 0#8 ++ BitVec.allOnes 3 ++ BitVec.allOnes 1 ++ BitVec.allOnes 4) =
    f.res1 ++ 0#8 ++ f.res0 ++ BitVec.ofBool f.raw ++ f.op
  simp only [BitVec.and_append, BitVec.and_allOnes, BitVec.and_zero]

/-! #### The decoder and the words of the commands -/

/-- A word that matches the `CRC_ACC` row is the word of `CRC_ACC` with its own `ARG` (30_encoding.md R81, R85). -/
theorem eq_encodeCmd_crcAcc {w : Word} (h : w &&& 0xFFFF00FF = 0x00000001) :
    w = encodeCmd (.crcAcc (w.extractLsb' 8 8)) := by
  have hone : (0x00000001 : Word) = wordOfFields (instrFields (.crcAcc 0)) := by decide
  rw [← wordOfFields_cmdFields w, wordOfFields_and_crcAccMask, hone] at h
  have hfields := congrArg cmdFields h
  simp only [cmdFields_wordOfFields, instrFields, CmdFields.mk.injEq] at hfields
  obtain ⟨hop, hraw, hres0, -, hres1⟩ := hfields
  rw [eq_encodeCmd_iff, instrFields, CmdFields.mk.injEq]
  exact ⟨hop, hraw, hres0, rfl, hres1⟩

/-- The word of `CRC_ACC` matches its row, whatever the byte (30_encoding.md R85). -/
theorem encodeCmd_crcAcc_and_mask (b : Byte) : encodeCmd (.crcAcc b) &&& 0xFFFF00FF = 0x00000001 :=
  calc
    _ = encodeCmd (.crcAcc 0) := wordOfFields_and_crcAccMask (instrFields (.crcAcc b))
    _ = 0x00000001 := by decide

/-- The decoder gives a command only for that command's word (30_encoding.md R86). -/
theorem eq_encodeCmd_of_decodeCmd {w : Word} {i : Instr} (h : decodeCmd w = .ok i) : w = encodeCmd i := by
  unfold decodeCmd at h
  split at h
  case isTrue hw => cases h; exact hw
  split at h
  case isTrue hw => cases h; exact eq_encodeCmd_crcAcc hw
  iterate 5
    split at h
    case isTrue hw => cases h; exact hw
  cases h

/-- The decoder reads every command back from its word (30_encoding.md R86). -/
theorem decodeCmd_encodeCmd (i : Instr) : decodeCmd (encodeCmd i) = .ok i := by
  cases i with
  | crcAcc b =>
    have harg : (encodeCmd (.crcAcc b)).extractLsb' 8 8 = b := congrArg CmdFields.arg (cmdFields_wordOfFields _)
    have hmask := encodeCmd_crcAcc_and_mask b
    have hne : encodeCmd (.crcAcc b) ≠ 0 := fun h => absurd (h ▸ hmask) (by decide)
    rw [decodeCmd, if_neg hne, if_pos hmask, harg]
  | _ => decide

/-- The decoder and the encoder are inverse to each other (30_encoding.md R85, R86). -/
theorem decodeCmd_eq_ok_iff (w : Word) (i : Instr) : decodeCmd w = .ok i ↔ w = encodeCmd i :=
  ⟨eq_encodeCmd_of_decodeCmd, fun h => h ▸ decodeCmd_encodeCmd i⟩

/-- A word is illegal exactly when no command has it as its word (30_encoding.md R86). -/
theorem decodeCmd_error_iff (w : Word) : (∃ e, decodeCmd w = .error e) ↔ ¬ ∃ i, w = encodeCmd i := by
  simp only [← decodeCmd_eq_ok_iff]
  cases decodeCmd w <;> simp

/-! #### The opcode map -/

/-- No two rows of the opcode map carry one mnemonic (30_encoding.md R85). -/
theorem opcodeRow_ext_mnemonic :
    ∀ r ∈ opcodeRows, ∀ r' ∈ opcodeRows, r.mnemonic = r'.mnemonic → r = r' := by
  decide

/-- The word of a command matches the row with the command's mnemonic (30_encoding.md R85). -/
theorem exists_row_of_encodeCmd (i : Instr) :
    ∃ r ∈ opcodeRows, encodeCmd i &&& r.mask = r.pattern ∧ r.mnemonic = i.mnemonic := by
  cases i with
  | crcAcc b => exact ⟨⟨"CRC_ACC", 0x00000001, 0xFFFF00FF⟩, by decide, encodeCmd_crcAcc_and_mask b, rfl⟩
  | _ => decide

/-- A row matches only words of commands with the row's mnemonic (30_encoding.md R85). -/
theorem exists_encodeCmd_of_row {w : Word} {r : OpcodeRow} (hr : r ∈ opcodeRows) (h : w &&& r.mask = r.pattern) :
    ∃ i, w = encodeCmd i ∧ r.mnemonic = i.mnemonic := by
  simp only [opcodeRows, List.mem_cons, List.not_mem_nil, or_false] at hr
  have hfull : w &&& 0xFFFFFFFF = w := BitVec.and_allOnes
  rcases hr with rfl | rfl | rfl | rfl | rfl | rfl | rfl
  · exact ⟨.nop, hfull.symm.trans h, rfl⟩
  · exact ⟨.crcAcc _, eq_encodeCmd_crcAcc h, rfl⟩
  · exact ⟨.crcExtend, hfull.symm.trans h, rfl⟩
  · exact ⟨.crcClear, hfull.symm.trans h, rfl⟩
  · exact ⟨.encode, hfull.symm.trans h, rfl⟩
  · exact ⟨.encodeRaw, hfull.symm.trans h, rfl⟩
  · exact ⟨.decode, hfull.symm.trans h, rfl⟩

/-- At most one row of the opcode map matches a word: the rows' mnemonics are that of the one command the word decodes
to (30_encoding.md R85). -/
theorem opcodeRow_unique {w : Word} {r r' : OpcodeRow} (hr : r ∈ opcodeRows) (hr' : r' ∈ opcodeRows)
    (h : w &&& r.mask = r.pattern) (h' : w &&& r'.mask = r'.pattern) : r = r' := by
  obtain ⟨i, hi, hmn⟩ := exists_encodeCmd_of_row hr h
  obtain ⟨j, hj, hmn'⟩ := exists_encodeCmd_of_row hr' h'
  have hij : Except.ok i = Except.ok j :=
    ((decodeCmd_eq_ok_iff w i).2 hi).symm.trans ((decodeCmd_eq_ok_iff w j).2 hj)
  cases hij
  exact opcodeRow_ext_mnemonic r hr r' hr' (hmn.trans hmn'.symm)

/-- Some command has the word exactly when some row matches it (30_encoding.md R85). -/
theorem exists_encodeCmd_iff_row (w : Word) :
    (∃ i, w = encodeCmd i) ↔ ∃ r ∈ opcodeRows, w &&& r.mask = r.pattern := by
  constructor
  · rintro ⟨i, rfl⟩
    obtain ⟨r, hr, hsel, -⟩ := exists_row_of_encodeCmd i
    exact ⟨r, hr, hsel⟩
  · rintro ⟨r, hr, hsel⟩
    obtain ⟨i, hi, -⟩ := exists_encodeCmd_of_row hr hsel
    exact ⟨i, hi⟩

/-! #### The legal and the illegal fields -/

/-- The operation codes the opcode map gives: the one that may have `RAW` set, the one with an operand, and the rest
(30_encoding.md R82, R83, R85). -/
theorem op_cases : ∀ op : BitVec 4,
    op ≤ 5 → op = 4 ∨ op = 1 ∨ (op ≠ 4 ∧ op ≠ 1 ∧ (op = 0 ∨ op = 2 ∨ op = 3 ∨ op = 5)) := by
  decide

/-- What the four checks on the fields ask (30_encoding.md R82 to R85). -/
theorem wellFormed_iff_checks (f : CmdFields) :
    f.wellFormed = true ↔
      f.op ≤ 5 ∧ (f.op ≠ 4 → f.raw = false) ∧ (f.op ≠ 1 → f.arg = 0) ∧ f.res0 = 0 ∧ f.res1 = 0 := by
  simp [CmdFields.wellFormed, CmdFields.opDefined, CmdFields.rawAllowed, CmdFields.argAllowed,
    CmdFields.reservedZero, and_assoc, or_iff_not_imp_right]

/-- Fields are well formed exactly when they are the fields of a command (30_encoding.md R85). -/
theorem wellFormed_iff_exists_instr (f : CmdFields) : f.wellFormed = true ↔ ∃ i, f = instrFields i := by
  rw [wellFormed_iff_checks]
  constructor
  · obtain ⟨op, raw, res0, arg, res1⟩ := f
    change op ≤ 5 ∧ (op ≠ 4 → raw = false) ∧ (op ≠ 1 → arg = 0) ∧ res0 = 0 ∧ res1 = 0 → _
    rintro ⟨hop, hraw, harg, rfl, rfl⟩
    rcases op_cases op hop with rfl | rfl | ⟨h4, h1, hrest⟩
    · obtain rfl := harg (by decide)
      cases raw
      · exact ⟨.encode, rfl⟩
      · exact ⟨.encodeRaw, rfl⟩
    · obtain rfl := hraw (by decide)
      exact ⟨.crcAcc arg, rfl⟩
    · obtain rfl := hraw h4
      obtain rfl := harg h1
      rcases hrest with rfl | rfl | rfl | rfl
      · exact ⟨.nop, rfl⟩
      · exact ⟨.crcExtend, rfl⟩
      · exact ⟨.crcClear, rfl⟩
      · exact ⟨.decode, rfl⟩
  · rintro ⟨i, rfl⟩
    cases i <;> simp [instrFields]

/-- The four cases of 30_encoding.md R88 are the failures of the four checks. -/
theorem not_wellFormed_iff_cases (f : CmdFields) :
    ¬ f.wellFormed = true ↔
      6 ≤ f.op.toNat ∨ (f.raw = true ∧ f.op ≠ 4) ∨ (f.arg ≠ 0 ∧ f.op ≠ 1) ∨ f.res0 ≠ 0 ∨ f.res1 ≠ 0 := by
  have hop : 6 ≤ f.op.toNat ↔ ¬ f.op ≤ 5 := by bv_omega
  have hraw : f.raw = true ↔ ¬ f.raw = false := by simp
  rw [wellFormed_iff_checks, hop, hraw]
  tauto

/-- A word is illegal exactly when its fields are not well formed (30_encoding.md R88). -/
theorem decodeCmd_error_iff_fields (w : Word) :
    (∃ e, decodeCmd w = .error e) ↔ ¬ (cmdFields w).wellFormed = true := by
  simp only [decodeCmd_error_iff, eq_encodeCmd_iff, wellFormed_iff_exists_instr]

end Sys2Proof.Machine

namespace Sys2Proof.Proofs

open Sys2Proof.Machine

/-- Settles O3: a row matches exactly the words of the commands it names, and those are what the decoder reads. -/
theorem decoderFollowsOpcodeMap : Obligations.DecoderFollowsOpcodeMap := by
  refine ⟨rfl, fun w r hr r' hr' h h' => opcodeRow_unique hr hr' h h', fun w i h => ?_, fun w => ?_⟩
  · obtain rfl := (decodeCmd_eq_ok_iff w i).1 h
    exact exists_row_of_encodeCmd i
  · rw [decodeCmd_error_iff, exists_encodeCmd_iff_row]
    simp only [not_exists, not_and, ne_eq]

/-- Settles O5: the illegal words are those with fields that are not well formed; acceptance does not decode the word,
and completion does. -/
theorem illegalWordsCompleteWithoutEffect : Obligations.IllegalWordsCompleteWithoutEffect :=
  ⟨fun w => (decodeCmd_error_iff_fields w).trans (not_wellFormed_iff_cases (cmdFields w)),
    fun _ w hp hb => busWrite_cmd hp hb w, fun s _ _ he => completionStep_illegal he s⟩

end Sys2Proof.Proofs

/-! ### The commands that touch no frame: `NOP`, `CRC_CLEAR`, `CRC_ACC` (40_crc.md R113 to R115)

Each of them is a completion with result code `OK` of the state with at most `CRC` changed, so what it changes and what
it leaves unchanged is read off from one law of `complete`. -/

namespace Sys2Proof.Machine

open Sys2Proof.Claims

/-- All that a completion changes: `STATUS` and the latch (00_scope.md R13, 60_exceptions.md R199). -/
theorem complete_eq_finished (c : ResultCode) (s : State) :
    complete c s = { s with status := finished c.bits, pend := none } := rfl

/-- `STATUS` after a completion without an error, as a bus word (40_crc.md R113). -/
theorem finished_ok_toWord : (finished ResultCode.ok.bits).toWord = 0x00000002 := by decide

theorem exec_nop (s : State) : exec .nop s = .next (complete .ok s) := rfl

theorem exec_crcClear (s : State) : exec .crcClear s = .next (complete .ok { s with crc := 0x0000 }) := rfl

theorem exec_crcAcc (b : Byte) (s : State) :
    exec (.crcAcc b) s = .next (complete .ok { s with crc := crcAcc s.operands.crc b }) := rfl

/-- The word of `CRC_ACC b` as arithmetic on the byte (40_crc.md R115): `ARG` is worth 256 times its value, `OP` is 1
and every other field is 0, and the sum stays below `2 ^ 16`. -/
theorem encodeCmd_crcAcc (b : Byte) : encodeCmd (.crcAcc b) = (b.zeroExtend 32 <<< 8) + 1 := by
  have hb := b.isLt
  have hword : (encodeCmd (.crcAcc b)).toNat = 256 * b.toNat + 1 := by
    rw [encodeCmd, wordOfFields_toNat]
    simp [instrFields, Nat.add_comm]
  have hone : (1 : Word).toNat = 1 := rfl
  apply BitVec.eq_of_toNat_eq
  rw [hword, BitVec.toNat_add, BitVec.toNat_shiftLeft, Nat.shiftLeft_eq, BitVec.toNat_setWidth, hone]
  omega

/-- A byte equal to the low byte of the accumulator cancels it: the intermediate of R110 is 0 and only the shifted
accumulator is left (40_crc.md R115). -/
theorem crcAcc_lowByte (c : Half) : crcAcc c (c.extractLsb' 0 8) = c >>> 8 := by
  unfold crcAcc
  rw [BitVec.xor_self]
  simp

end Sys2Proof.Machine

namespace Sys2Proof.Proofs

open Sys2Proof.Machine

/-- Settles O11: the word and the effect are laws of their own, and the first two values are cases of the cancelling
byte. -/
theorem crcAccFoldsItsByte : Obligations.CrcAccFoldsItsByte := by
  refine ⟨encodeCmd_crcAcc, fun s b => ?_, crcAcc_lowByte, crcAcc_lowByte 0x0000, crcAcc_lowByte 0xFFFF, by decide⟩
  rw [exec_crcAcc, complete_eq_finished]
  rfl

/-- Settles O9: `NOP` is a completion and nothing else. -/
theorem nopOnlySetsStatus : Obligations.NopOnlySetsStatus :=
  ⟨by decide, fun s => ⟨complete .ok s, exec_nop s, finished_ok_toWord, complete_eq_finished .ok s⟩⟩

/-- Settles O10: a state just cleared has nothing left to clear, and its latch is empty already. -/
theorem crcClearZeroesCrc : Obligations.CrcClearZeroesCrc := by
  refine ⟨by decide, fun s => ⟨_, exec_crcClear s, rfl, complete_eq_finished .ok _, ?_⟩⟩
  rw [exec_crcClear, complete_eq_finished, complete_eq_finished]

end Sys2Proof.Proofs


/-! ### The encode commands: `ENCODE` and `ENCODE_RAW` (41_encoder.md R133 to R139)

A run of bytes read from an emitted frame is that run of `frameBytes`, so each field of the frame is read off from the
list. Both commands end with one and the same effect, which differs only in the values of `LAT_E7` and `LON_E7`. -/

namespace Sys2Proof.Machine

open Sys2Proof.Claims

/-! #### Fields of an emitted frame -/

/-- A word whose four bytes are those of `v` is `v` (00_scope.md R11). -/
theorem Memory.word_of_readBytes {m : Memory} {i : Nat} {v : Word} (h : Memory.readBytes m i 4 = bytesLE32 v) :
    Memory.word m i = v := by
  simp only [Memory.readBytes, bytesLE32, List.cons.injEq, and_true] at h
  obtain ⟨h0, h1, h2, h3⟩ := h
  rw [Memory.word, h0, h1, h2, h3]
  exact le32_bytes v

/-- A half word whose two bytes are those of `v` is `v` (00_scope.md R11). -/
theorem Memory.half_of_readBytes {m : Memory} {i : Nat} {v : Half} (h : Memory.readBytes m i 2 = bytesLE16 v) :
    Memory.half m i = v := by
  simp only [Memory.readBytes, bytesLE16, List.cons.injEq, and_true] at h
  obtain ⟨h0, h1⟩ := h
  rw [Memory.half, h0, h1]
  exact le16_bytes v

/-- A 32-bit field of an emitted frame reads back as the value packed there (41_encoder.md R133). -/
theorem emitFrame_word {s : State} (hwf : Memory.wf s.txbuf = true) {la lo v : Word} {i : Nat} (hi : i + 4 ≤ 40)
    (hv : ((frameBytes Config.compId s.operands la lo).drop i).take 4 = bytesLE32 v) :
    Memory.word (emitFrame la lo s).txbuf i = v :=
  Memory.word_of_readBytes ((emitFrame_readBytes hwf la lo 4 i hi).trans hv)

/-- A 16-bit field of an emitted frame reads back as the value packed there (41_encoder.md R133). -/
theorem emitFrame_half {s : State} (hwf : Memory.wf s.txbuf = true) {la lo : Word} {v : Half} {i : Nat}
    (hi : i + 2 ≤ 40) (hv : ((frameBytes Config.compId s.operands la lo).drop i).take 2 = bytesLE16 v) :
    Memory.half (emitFrame la lo s).txbuf i = v :=
  Memory.half_of_readBytes ((emitFrame_readBytes hwf la lo 2 i hi).trans hv)

/-- The checksum over bytes 1 to 37 of an emitted frame is the one the encoder computed (41_encoder.md R136). -/
theorem emitFrame_frameSum {s : State} (hwf : Memory.wf s.txbuf = true) (la lo : Word) :
    frameSum (emitFrame la lo s).txbuf 28 = frameChecksum Config.compId s.operands la lo := by
  have hcovered : Memory.readBytes (emitFrame la lo s).txbuf 1 (9 + 28) =
      headerTail Config.compId s.operands ++ payloadBytes s.operands la lo :=
    emitFrame_readBytes hwf la lo 37 1 (by omega)
  rw [frameSum, hcovered, frameChecksum_eq]
  rfl

/-- An emitted frame is the frame of 30_encoding.md R90 to R94. -/
theorem holdsFrame_emitFrame {s : State} (hwf : Memory.wf s.txbuf = true) (la lo : Word) :
    HoldsFrame (emitFrame la lo s).txbuf s.operands la lo :=
  ⟨emitFrame_readBytes hwf la lo 10 0 (by omega),
    emitFrame_word hwf (by omega) rfl, emitFrame_word hwf (by omega) rfl, emitFrame_word hwf (by omega) rfl,
    emitFrame_word hwf (by omega) rfl, emitFrame_word hwf (by omega) rfl,
    emitFrame_half hwf (by omega) rfl, emitFrame_half hwf (by omega) rfl, emitFrame_half hwf (by omega) rfl,
    emitFrame_half hwf (by omega) rfl, (emitFrame_sent hwf la lo).trans (emitFrame_frameSum hwf la lo).symm⟩

/-- The effect both encode commands share, whatever they leave in `LAT_E7` and `LON_E7` (41_encoder.md R136, R137). -/
theorem emitsFrame_complete {s : State} (hwf : Memory.wf s.txbuf = true) (la lo x y : Word) :
    EmitsFrame s (complete .ok { emitFrame la lo s with latE7 := x, lonE7 := y }) la lo :=
  ⟨holdsFrame_emitFrame hwf la lo, (emitFrame_encCrc la lo s).trans (emitFrame_sent hwf la lo).symm,
    fun _ ha => emitFrame_read_past s la lo ha, rfl, rfl⟩

/-! #### The two commands -/

theorem exec_encodeRaw (s : State) :
    exec .encodeRaw s = .next (complete .ok (emitFrame s.operands.latE7 s.operands.lonE7 s)) := rfl

theorem exec_encode_of_scale {s : State} {la lo : Word} (hla : scale s.operands.latF64 = some la)
    (hlo : scale s.operands.lonF64 = some lo) :
    exec .encode s = .next (complete .ok { emitFrame la lo s with latE7 := la, lonE7 := lo }) := by
  change execEncode s = _
  simp only [execEncode, hla, hlo]

theorem exec_encode_of_range {s : State}
    (h : scale s.operands.latF64 = none ∨ scale s.operands.lonF64 = none) :
    exec .encode s = .next (complete .scaleOutOfRange s) := by
  change execEncode s = _
  unfold execEncode
  split
  next hla hlo => simp [hla, hlo] at h
  next => rfl

/-- A NaN and an infinity are `RANGE` (41_encoder.md R130). -/
theorem scale_of_nan_or_inf {x : F64} (h : f64IsNan x = true ∨ f64IsInf x = true) : scale x = none := by
  cases hs : scale x with
  | none => rfl
  | some w =>
    obtain ⟨hnan, hinf, -, -⟩ := scale_cases hs
    simp [hnan, hinf] at h

end Sys2Proof.Machine

namespace Sys2Proof.Proofs

open Sys2Proof.Machine

/-- Settles O20: the effect is the one both encode commands share, and the error is a completion and nothing else. -/
theorem encodeFollowsItsRule : Obligations.EncodeFollowsItsRule := by
  refine ⟨by decide, fun s la lo hwf hla hlo => ?_, fun s h => ?_, fun _ => ⟨rfl, rfl⟩,
    fun _ => scale_of_nan_or_inf, by decide +kernel, by decide +kernel, by decide +kernel⟩
  · exact ⟨_, exec_encode_of_scale hla hlo, emitsFrame_complete hwf la lo la lo, rfl, rfl, rfl⟩
  · rw [exec_encode_of_range h, complete_eq_finished]
    rfl

/-- Settles O21: the shared effect, with `LAT_E7` and `LON_E7` left as they are. -/
theorem encodeRawFollowsItsRule : Obligations.EncodeRawFollowsItsRule := by
  refine ⟨by decide, fun s hwf => ?_, by decide, by decide, by decide +kernel⟩
  exact ⟨_, exec_encodeRaw s, emitsFrame_complete hwf _ _ s.latE7 s.lonE7, rfl⟩

end Sys2Proof.Proofs


/-! ### The decoder: `DECODE` and the order of its checks (42_decoder.md R160 to R169)

The notions the statements are made of are the checks of `decodeFrame`, so each check that fails fixes the verdict. The
command is then one completion per verdict, and `complete_eq_finished` says what a completion changes. -/

namespace Sys2Proof.Machine

open Sys2Proof.Claims

/-! #### The notions of the statements as the checks of the decoder -/

theorem rxLength_of_longEnough {o : Inputs} (h : LongEnough o) : 12 + o.rxDeclared ≤ o.rxLength := by
  obtain ⟨-, hframe⟩ := h
  change 10 + o.rxDeclared + 2 ≤ o.rxLength at hframe
  omega

theorem supportedType_iff (o : Inputs) : SupportedType o ↔ o.rxMsgId = Config.msgId := (rxMsgId_eq_iff o).symm

theorem lengthAccepted_iff (o : Inputs) : LengthAccepted o ↔ lengthRejected o.strictLen o.rxDeclared = false :=
  (lengthRejected_eq_false_iff o.strictLen o.rxDeclared).symm

theorem calcChecksum_eq_frameSum (o : Inputs) : o.calcChecksum = frameSum o.rxbuf (declared o) := rfl

theorem rxChecksum_eq_receivedSum (o : Inputs) : o.rxChecksum = receivedSum o := rfl

/-! #### The verdict on a frame -/

theorem decodeFrame_of_other_type {o : Inputs} (hlong : LongEnough o) (htype : ¬ SupportedType o) :
    decodeFrame o = .unsupported := by
  rw [supportedType_iff] at htype
  rw [decodeFrame_long (rxLength_of_longEnough hlong), if_pos htype]

theorem decodeFrame_of_rejected_length {o : Inputs} (hlong : LongEnough o) (htype : SupportedType o)
    (hlen : ¬ LengthAccepted o) : decodeFrame o = .malformed := by
  rw [supportedType_iff] at htype
  rw [lengthAccepted_iff, Bool.not_eq_false] at hlen
  rw [decodeFrame_long (rxLength_of_longEnough hlong), if_neg (not_not_intro htype), if_pos hlen]

/-- A frame that passes the checks of its lengths and its type is judged by its checksums alone (42_decoder.md R165 to
R167). -/
theorem decodeFrame_of_accepted {o : Inputs} (hlong : LongEnough o) (htype : SupportedType o)
    (hlen : LengthAccepted o) :
    decodeFrame o =
      if o.verifyCrc && o.calcChecksum != o.rxChecksum then .mismatch o.calcChecksum o.rxChecksum
      else .sample o.calcChecksum o.rxChecksum o.rxSysId o.rxLat o.rxLon := by
  rw [supportedType_iff] at htype
  rw [lengthAccepted_iff] at hlen
  rw [decodeFrame_long (rxLength_of_longEnough hlong), if_neg (not_not_intro htype), hlen, if_neg Bool.false_ne_true]

theorem decodeFrame_of_unequal_checksums {o : Inputs} (hlong : LongEnough o) (htype : SupportedType o)
    (hlen : LengthAccepted o) (hverify : o.ctrl.getLsbD 0 = true)
    (hne : frameSum o.rxbuf (declared o) ≠ receivedSum o) :
    decodeFrame o = .mismatch (frameSum o.rxbuf (declared o)) (receivedSum o) := by
  rw [decodeFrame_of_accepted hlong htype hlen, calcChecksum_eq_frameSum, rxChecksum_eq_receivedSum, if_pos]
  rw [Inputs.verifyCrc, hverify, Bool.true_and, bne_iff_ne]
  exact hne

theorem decodeFrame_of_passed_checksums {o : Inputs} (hlong : LongEnough o) (htype : SupportedType o)
    (hlen : LengthAccepted o)
    (hpass : o.ctrl.getLsbD 0 = false ∨ frameSum o.rxbuf (declared o) = receivedSum o) :
    decodeFrame o = .sample (frameSum o.rxbuf (declared o)) (receivedSum o) o.rxSysId o.rxLat o.rxLon := by
  rw [decodeFrame_of_accepted hlong htype hlen, calcChecksum_eq_frameSum, rxChecksum_eq_receivedSum, if_neg]
  rw [Inputs.verifyCrc, Bool.and_eq_true, bne_iff_ne]
  rintro ⟨hverify, hne⟩
  rcases hpass with hoff | heq
  · exact Bool.false_ne_true (hoff.symm.trans hverify)
  · exact hne heq

/-! #### The command, by the verdict -/

theorem exec_decode_of_malformed {s : State} (h : decodeFrame s.operands = .malformed) :
    exec .decode s = .next (complete .malformedFrame s) := by
  change execDecode s = _
  rw [execDecode, h]

theorem exec_decode_of_unsupported {s : State} (h : decodeFrame s.operands = .unsupported) :
    exec .decode s = .next (complete .unsupportedMessageType s) := by
  change execDecode s = _
  rw [execDecode, h]

theorem exec_decode_of_mismatch {s : State} {computed received : Half}
    (h : decodeFrame s.operands = .mismatch computed received) :
    exec .decode s = .next (complete .checksumMismatch (recordChecksums computed received s)) := by
  change execDecode s = _
  rw [execDecode, h]

theorem exec_decode_of_sample {s : State} {computed received : Half} {sysId : Byte} {lat lon : Word}
    (h : decodeFrame s.operands = .sample computed received sysId lat lon) :
    exec .decode s = .next (complete .ok (writeSample sysId lat lon (recordChecksums computed received s))) := by
  change execDecode s = _
  rw [execDecode, h]

end Sys2Proof.Machine

namespace Sys2Proof.Proofs

open Sys2Proof.Machine Sys2Proof.Claims

/-- Settles O24: both length checks come before every other one. -/
theorem shortBuffersAreMalformed : Obligations.ShortBuffersAreMalformed := by
  intro s
  refine ⟨fun hheader => ?_, fun _ hframe => ?_⟩
  · exact exec_decode_of_malformed (decodeFrame_short (Or.inl hheader))
  · have hshort : s.operands.rxLength < 12 + s.operands.rxDeclared := by
      change s.operands.rxLength < 10 + s.operands.rxDeclared + 2 at hframe
      omega
    exact exec_decode_of_malformed (decodeFrame_short (Or.inr hshort))

/-- Settles O25: on a long enough buffer the check of the type is the next one. -/
theorem otherTypesAreUnsupported : Obligations.OtherTypesAreUnsupported :=
  fun _ hlong htype => exec_decode_of_unsupported (decodeFrame_of_other_type hlong htype)

/-- Settles O27: the verdict on the checksums, and the halves of the degrees put together again. -/
theorem decodeRecoversTheSample : Obligations.DecodeRecoversTheSample := by
  intro s hlong htype hlen
  refine ⟨fun hverify hne => ?_, fun hpass => ?_⟩
  · exact exec_decode_of_mismatch (decodeFrame_of_unequal_checksums hlong htype hlen hverify hne)
  · exact ⟨_, exec_decode_of_sample (decodeFrame_of_passed_checksums hlong htype hlen hpass), rfl, rfl, rfl,
      halves_append _, halves_append _, rfl⟩

/-- Settles O26: a refused length is the verdict; past an accepted one only the checksums are left to fail. -/
theorem lengthPolicyDecides : Obligations.LengthPolicyDecides := by
  intro s hlong htype
  refine ⟨fun hrefused => ?_, fun hlen => ?_⟩
  · exact exec_decode_of_malformed (decodeFrame_of_rejected_length hlong htype hrefused)
  · by_cases hpass : s.operands.ctrl.getLsbD 0 = false ∨
        frameSum s.operands.rxbuf (declared s.operands) = receivedSum s.operands
    · exact ⟨_, exec_decode_of_sample (decodeFrame_of_passed_checksums hlong htype hlen hpass), Or.inl rfl⟩
    · rw [not_or, Bool.not_eq_false] at hpass
      obtain ⟨hverify, hne⟩ := hpass
      exact ⟨_, exec_decode_of_mismatch (decodeFrame_of_unequal_checksums hlong htype hlen hverify hne), Or.inr rfl⟩

end Sys2Proof.Proofs


/-! ### Errors are precise (60_exceptions.md R190 to R199)

The error paths of the commands are few, and `exec_error_cases` lists them once: a command that answers with a non-zero
code is `ENCODE` out of range or `DECODE` of a frame that fails a check. Each is a completion of the state before the
command, on which only a checksum mismatch has recorded anything. -/

namespace Sys2Proof.Machine

open Sys2Proof.Claims

/-! #### The errors a command can end with -/

/-- What each error of `exec` comes from, and the completion it is (60_exceptions.md R190 to R194). -/
theorem exec_error_cases {i : Instr} {s t : State} (h : exec i s = .next t) (herr : t.status.err ≠ 0) :
    (i = .encode ∧ (scale s.operands.latF64 = none ∨ scale s.operands.lonF64 = none) ∧
        t = complete .scaleOutOfRange s) ∨
      (i = .decode ∧ decodeFrame s.operands = .malformed ∧ t = complete .malformedFrame s) ∨
      (i = .decode ∧ decodeFrame s.operands = .unsupported ∧ t = complete .unsupportedMessageType s) ∨
      ∃ computed received, i = .decode ∧ decodeFrame s.operands = .mismatch computed received ∧
        t = complete .checksumMismatch (recordChecksums computed received s) := by
  have hok (u : State) : t ≠ complete .ok u := fun ht => herr (congrArg (·.status.err) ht)
  cases i
  case nop | crcAcc | crcExtend | crcClear | encodeRaw => exact absurd (Host.Outcome.next.inj h).symm (hok _)
  case encode =>
    obtain ⟨la, lo, -, -, ht⟩ | ⟨hrange, ht⟩ := execEncode_cases h
    · exact absurd ht (hok _)
    · exact Or.inl ⟨rfl, hrange, ht⟩
  case decode =>
    obtain ⟨hd, ht⟩ | ⟨hd, ht⟩ | ⟨computed, received, hd, ht⟩ | ⟨_, _, _, _, _, -, ht⟩ := execDecode_cases h
    · exact Or.inr (Or.inl ⟨rfl, hd, ht⟩)
    · exact Or.inr (Or.inr (Or.inl ⟨rfl, hd, ht⟩))
    · exact Or.inr (Or.inr (Or.inr ⟨computed, received, rfl, hd, ht⟩))
    · exact absurd ht (hok _)

/-! #### What an error changes -/

/-- A completion of the state before the command is that state but for `STATUS` and the latch, and the code is the one
`STATUS` then shows (60_exceptions.md R199). -/
theorem eq_finished_of_complete {c : ResultCode} {s t : State} (ht : t = complete c s) :
    t = { s with status := finished t.status.err, pend := none } := by
  rw [ht, complete_status, statusCompleted_err, complete_eq_finished]

/-- A checksum mismatch leaves its record, and is otherwise precise too (60_exceptions.md R193, R199). -/
theorem eq_finished_of_mismatch {computed received : Half} {s t : State}
    (ht : t = complete .checksumMismatch (recordChecksums computed received s)) :
    t.status.err = 3 ∧
      t = { s with decCrcCalc := t.decCrcCalc, decCrcRx := t.decCrcRx, status := finished 3, pend := none } := by
  subst ht
  exact ⟨rfl, rfl⟩

/-- The completion of a word that is no command (60_exceptions.md R195, R199). -/
theorem completeIllegal_eq_finished (s : State) : completeIllegal s = { s with status := finished 5, pend := none } :=
  complete_eq_finished .illegalCommand s

end Sys2Proof.Machine

namespace Sys2Proof.Proofs

open Sys2Proof.Machine

/-- Settles O30: every error of a command is a completion of the state before it, and only the mismatch of checksums has
a record. -/
theorem errorsArePrecise : Obligations.ErrorsArePrecise := by
  refine ⟨fun i s t h herr => ?_, completeIllegal_eq_finished⟩
  obtain ⟨-, -, ht⟩ | ⟨-, -, ht⟩ | ⟨-, -, ht⟩ | ⟨_, _, -, -, ht⟩ := exec_error_cases h herr
  · exact Or.inl (eq_finished_of_complete ht)
  · exact Or.inl (eq_finished_of_complete ht)
  · exact Or.inl (eq_finished_of_complete ht)
  · exact Or.inr (eq_finished_of_mismatch ht)

end Sys2Proof.Proofs


/-! ### Reset (70_reset_and_hazards.md R210, R211)

What a reset keeps is the world outside, and no register reads it: so the registers read after a reset event as they do
in the state after reset, whatever came before. -/

namespace Sys2Proof.Machine

open Sys2Proof.Claims

/-- The register column of the state after reset (10_state.md R21). -/
@[simp] theorem readReg_reset (r : RegName) : readReg r State.reset = resetValue r := by
  cases r
  case id0 => exact readReg_id0 State.reset
  case ctrl => show (Inputs.reset.ctrl).zeroExtend 32 = 0x00000003; decide
  case status => show State.reset.status.toWord = 0x00000000; decide
  all_goals rfl

/-- No register reads the events still to come, or the count of accepted commands. -/
@[simp] theorem readReg_resetEvent (r : RegName) (s : State) : readReg r (resetEvent s) = readReg r State.reset := by
  cases r <;> rfl

@[simp] theorem read_resetEvent_txbuf (s : State) (a : Nat) : Memory.read (resetEvent s).txbuf a = 0x00 :=
  Memory.read_nil a

@[simp] theorem read_resetEvent_rxbuf (s : State) (a : Nat) : Memory.read (resetEvent s).rxbuf a = 0x00 :=
  Memory.read_nil a

end Sys2Proof.Machine

namespace Sys2Proof.Proofs

open Sys2Proof.Machine

/-- Settles O43: the event is `resetEvent`, whose registers, latch and buffers are those of the state after reset. -/
theorem resetTakesEffectAtOnce : Obligations.ResetTakesEffectAtOnce := by
  intro s rest
  rw [takeEvent_reset]
  exact ⟨fun r => (readReg_resetEvent r _).trans (readReg_reset r), resetEvent_pend _,
    fun a => ⟨read_resetEvent_txbuf _ a, read_resetEvent_rxbuf _ a⟩⟩

end Sys2Proof.Proofs


/-! ### The command word: round trip, and the count of the legal words (30_encoding.md R85 to R87)

The decoder and the encoder are inverse to each other (`decodeCmd_eq_ok_iff`), so the legal words are the words of the
commands, and counting words is counting commands. -/

namespace Sys2Proof.Machine

theorem encodeCmd_injective : Function.Injective encodeCmd := fun i j h =>
  Except.ok.inj <| (decodeCmd_encodeCmd i).symm.trans <| (congrArg decodeCmd h).trans (decodeCmd_encodeCmd j)

/-- Every command with an operand: `CRC_ACC` with each of the 256 bytes. -/
def crcAccCommands : List Instr := (List.finRange 256).map fun k => .crcAcc (BitVec.ofFin k)

/-- Every command without an operand (30_encoding.md R85). -/
def plainCommands : List Instr := [.nop, .crcExtend, .crcClear, .encode, .encodeRaw, .decode]

theorem crcAccCommands_nodup : crcAccCommands.Nodup := by
  refine (List.nodup_finRange 256).map fun k l h => ?_
  simpa using h

theorem mem_crcAccCommands (i : Instr) : i ∈ crcAccCommands ↔ ∃ b, i = .crcAcc b := by
  simp only [crcAccCommands, List.mem_map, List.mem_finRange, true_and]
  constructor
  · rintro ⟨k, rfl⟩
    exact ⟨_, rfl⟩
  · rintro ⟨b, rfl⟩
    exact ⟨b.toFin, rfl⟩

theorem mem_plainCommands (i : Instr) : i ∈ plainCommands ↔ ∀ b, i ≠ .crcAcc b := by
  cases i <;> simp [plainCommands]

/-- The two lists hold every command, each once (30_encoding.md R85). -/
theorem nodup_commands : (plainCommands ++ crcAccCommands).Nodup := by
  refine List.Nodup.append (by decide) crcAccCommands_nodup fun i hplain hacc => ?_
  obtain ⟨b, rfl⟩ := (mem_crcAccCommands i).1 hacc
  exact (mem_plainCommands _).1 hplain b rfl

theorem mem_commands (i : Instr) : i ∈ plainCommands ++ crcAccCommands := by
  rw [List.mem_append, mem_plainCommands, mem_crcAccCommands]
  by_cases h : ∃ b, i = .crcAcc b
  · exact Or.inr h
  · exact Or.inl (not_exists.1 h)

/-- A word decodes to a command of the list exactly when it is the word of one. -/
theorem mem_map_encodeCmd (l : List Instr) (w : Word) :
    w ∈ l.map encodeCmd ↔ ∃ i ∈ l, decodeCmd w = .ok i := by
  simp only [List.mem_map, decodeCmd_eq_ok_iff, eq_comm (a := w)]

end Sys2Proof.Machine

namespace Sys2Proof.Proofs

open Sys2Proof.Machine

/-- Settles O1: the decoder reads every command back from its word. -/
theorem decodeOfEncodeIsIdentity : Obligations.DecodeOfEncodeIsIdentity := fun i _ => decodeCmd_encodeCmd i

/-- Settles O2: the decoder gives a command only for that command's word. -/
theorem eachCommandHasOneWord : Obligations.EachCommandHasOneWord := fun _ _ => eq_encodeCmd_of_decodeCmd

/-- Settles O4: the legal words are the words of the 262 commands, which the encoder keeps apart. -/
theorem legalWordsAreCounted : Obligations.LegalWordsAreCounted := by
  refine ⟨⟨(plainCommands ++ crcAccCommands).map encodeCmd, nodup_commands.map encodeCmd_injective, ?_, fun w => ?_⟩,
    ⟨crcAccCommands.map encodeCmd, crcAccCommands_nodup.map encodeCmd_injective, ?_, fun w => ?_⟩, fun i _ => ?_⟩
  · simp [plainCommands, crcAccCommands]
  · simp only [mem_map_encodeCmd, mem_commands, true_and]
  · simp [crcAccCommands]
  · rw [mem_map_encodeCmd]
    constructor
    · rintro ⟨i, hi, hw⟩
      obtain ⟨b, rfl⟩ := (mem_crcAccCommands i).1 hi
      exact ⟨b, hw⟩
    · rintro ⟨b, hw⟩
      exact ⟨_, (mem_crcAccCommands _).2 ⟨b, rfl⟩, hw⟩
  · exact ⟨encodeCmd i, decodeCmd_encodeCmd i, fun w hw => eq_encodeCmd_of_decodeCmd hw⟩

/-- Settles O6: the words of four commands, and one word for each of two cases of 30_encoding.md R88. -/
theorem sampleWordsDecode : Obligations.SampleWordsDecode :=
  ⟨by decide, by decide, by decide, by decide, by decide, by decide⟩

end Sys2Proof.Proofs


/-! ### What every command does: it answers, it completes, and the world outside goes on (00_scope.md R13) -/

namespace Sys2Proof.Machine

open Sys2Proof.Claims

theorem exec_crcExtend (s : State) :
    exec .crcExtend s = .next (complete .ok { s with crc := crcAcc s.operands.crc 104 }) := rfl

/-- Every command answers a next state (93_implementation_defined.md section 1). -/
theorem exec_answers (i : Instr) (s : State) : Answers (exec i s) := by
  cases i with
  | nop => exact ⟨_, exec_nop s⟩
  | crcAcc b => exact ⟨_, exec_crcAcc b s⟩
  | crcExtend => exact ⟨_, exec_crcExtend s⟩
  | crcClear => exact ⟨_, exec_crcClear s⟩
  | encodeRaw => exact ⟨_, exec_encodeRaw s⟩
  | encode =>
    cases hla : scale s.operands.latF64 with
    | none => exact ⟨_, exec_encode_of_range (Or.inl hla)⟩
    | some la =>
      cases hlo : scale s.operands.lonF64 with
      | none => exact ⟨_, exec_encode_of_range (Or.inr hlo)⟩
      | some lo => exact ⟨_, exec_encode_of_scale hla hlo⟩
  | decode =>
    cases hd : decodeFrame s.operands with
    | malformed => exact ⟨_, exec_decode_of_malformed hd⟩
    | unsupported => exact ⟨_, exec_decode_of_unsupported hd⟩
    | mismatch computed received => exact ⟨_, exec_decode_of_mismatch hd⟩
    | sample computed received sysId lat lon => exact ⟨_, exec_decode_of_sample hd⟩

/-- What a command may have done to the block before it completes. -/
inductive Work (s : State) : State → Prop where
  /-- An error that records nothing, or `NOP`. -/
  | nothing : Work s s
  /-- The `CRC` commands (40_crc.md R114 to R116). -/
  | crc (c : Half) : Work s { s with crc := c }
  /-- The encode commands (41_encoder.md R138, R139). -/
  | frame (la lo x y : Word) : Work s { emitFrame la lo s with latE7 := x, lonE7 := y }
  /-- `DECODE` on a frame whose checksums disagree (42_decoder.md R166). -/
  | checksums (computed received : Half) : Work s (recordChecksums computed received s)
  /-- `DECODE` on a frame that passes (42_decoder.md R167). -/
  | sample (computed received : Half) (sysId : Byte) (lat lon : Word) :
      Work s (writeSample sysId lat lon (recordChecksums computed received s))

/-- Every command does one kind of work and completes (00_scope.md R13, 60_exceptions.md R199). -/
theorem exec_completes {i : Instr} {s t : State} (h : exec i s = .next t) :
    ∃ c u, Work s u ∧ t = complete c u := by
  cases i with
  | nop =>
    have ht : t = complete .ok s := Host.Outcome.next.inj (h.symm.trans (exec_nop s))
    exact ⟨_, _, .nothing, ht⟩
  | crcAcc b => exact ⟨.ok, _, .crc (crcAcc s.operands.crc b), Host.Outcome.next.inj (h.symm.trans (exec_crcAcc b s))⟩
  | crcExtend =>
    exact ⟨.ok, _, .crc (crcAcc s.operands.crc 104), Host.Outcome.next.inj (h.symm.trans (exec_crcExtend s))⟩
  | crcClear => exact ⟨.ok, _, .crc (0x0000), Host.Outcome.next.inj (h.symm.trans (exec_crcClear s))⟩
  | encodeRaw => exact ⟨.ok, _, .frame s.operands.latE7 s.operands.lonE7 s.latE7 s.lonE7, execEncodeRaw_cases h⟩
  | encode =>
    obtain ⟨la, lo, -, -, ht⟩ | ⟨-, ht⟩ := execEncode_cases h
    · exact ⟨_, _, .frame la lo la lo, ht⟩
    · exact ⟨_, _, .nothing, ht⟩
  | decode =>
    obtain ⟨-, ht⟩ | ⟨-, ht⟩ | ⟨_, _, -, ht⟩ | ⟨_, _, _, _, _, -, ht⟩ := execDecode_cases h
    · exact ⟨_, _, .nothing, ht⟩
    · exact ⟨_, _, .nothing, ht⟩
    · exact ⟨_, _, .checksums _ _, ht⟩
    · exact ⟨_, _, .sample _ _ _ _ _, ht⟩

/-- The work of a command leaves the world outside as it is. -/
theorem Work.outside {s u : State} (h : Work s u) :
    u.events = s.events ∧ u.resp = s.resp ∧ u.accepted = s.accepted := by
  cases h <;> exact ⟨rfl, rfl, rfl⟩

/-- After a command the latch is empty and `STATUS` is that of a completion; the world outside is as it was. -/
theorem exec_frame {i : Instr} {s t : State} (h : exec i s = .next t) :
    t.pend = none ∧ t.status = finished t.status.err ∧
      t.events = s.events ∧ t.resp = s.resp ∧ t.accepted = s.accepted := by
  obtain ⟨c, u, hwork, rfl⟩ := exec_completes h
  exact ⟨rfl, rfl, hwork.outside⟩

/-- The completion step answers, with an empty latch and `BUSY = 0`, and leaves the world outside as it is. -/
theorem completionStep_frame (p : Pending) (s : State) :
    ∃ t, completionStep p s = .next t ∧ t.pend = none ∧ t.status.busy = false ∧ t.events = s.events := by
  cases hw : decodeCmd p.word with
  | ok i =>
    obtain ⟨t, ht⟩ := exec_answers i s
    obtain ⟨hpend, hstatus, hevents, -, -⟩ := exec_frame ht
    exact ⟨t, by simpa only [completionStep, hw] using ht, hpend, congrArg Status.busy hstatus, hevents⟩
  | error e => exact ⟨_, completionStep_illegal hw s, rfl, rfl, rfl⟩

/-- Every step answers: the engine completes, or the world outside takes its turn. -/
theorem step_answers (s : State) : Answers (step s) := by
  cases hp : s.pend with
  | none => exact ⟨_, step_idle hp⟩
  | some p =>
    by_cases hw : p.wait = 0
    · obtain ⟨t, ht, -⟩ := completionStep_frame p s
      exact ⟨t, (step_due hp hw).trans ht⟩
    · by_cases he : s.events = []
      · obtain ⟨t, ht, -⟩ := completionStep_frame p s
        exact ⟨t, (step_alone hp he).trans ht⟩
      · exact ⟨_, step_waiting hp he hw⟩

end Sys2Proof.Machine

/-! ### The invariant (10_state.md R24, R29, R43, R47, R50, R51; 60_exceptions.md R190, R196)

The invariant has a part about the data of the block, its buffers and its results, and a part about `STATUS` and the
latch. A completion and an acceptance set up the second part by themselves; only the work of a command, a write to
`RXBUF` and a reset touch the first. -/

namespace Sys2Proof.Machine

/-- The part of the invariant about the buffers and the results: what a completion and an acceptance find and leave. -/
structure State.DataInv (s : State) : Prop where
  /-- `TXBUF` is in canonical form. -/
  txbuf_wf : Memory.wf s.txbuf = true
  /-- `TXBUF` has 40 bytes (10_state.md R50). -/
  txbuf_within : Memory.within Config.txBytes s.txbuf = true
  /-- `RXBUF` is in canonical form. -/
  rxbuf_wf : Memory.wf s.rxbuf = true
  /-- `RXBUF` has 268 bytes (10_state.md R51). -/
  rxbuf_within : Memory.within Config.rxBytes s.rxbuf = true
  /-- `ENC_CRC` equals the checksum bytes of `TXBUF` (10_state.md R43). -/
  encCrc_is_sent : s.encCrc = Memory.half s.txbuf 38
  /-- `DEC_LAT_F64` is `DEC_LAT_E7` divided by 1e7 (10_state.md R47). -/
  decLat_in_degrees : s.decLatF64Hi ++ s.decLatF64Lo = degreesOf s.decLatE7
  /-- `DEC_LON_F64` is `DEC_LON_E7` divided by 1e7 (10_state.md R47). -/
  decLon_in_degrees : s.decLonF64Hi ++ s.decLonF64Lo = degreesOf s.decLonE7

theorem State.Inv.data {s : State} (h : s.Inv) : s.DataInv := { h with }

/-- A state with the data part and a sound `STATUS` and latch has the invariant. -/
theorem State.DataInv.inv {s : State} (h : s.DataInv) (hbusy : s.status.busy = s.pend.isSome)
    (hdone : (s.status.busy && s.status.done) = false) (herr : s.status.err.toNat ≤ 5)
    (hzero : s.status.done = false → s.status.err = 0) (hlive : s.operands = s.toInputs) : s.Inv :=
  { h with
    busy_iff_pending := hbusy, not_busy_and_done := hdone, err_not_reserved := herr
    err_zero_unless_done := hzero, snapshot_is_live := hlive }

/-- A completion leaves the invariant, whatever `STATUS` and the latch were (60_exceptions.md R199). -/
theorem State.DataInv.complete {s : State} (h : s.DataInv) (c : ResultCode) : (complete c s).Inv :=
  State.DataInv.inv { h with } rfl rfl c.bits_le nofun rfl

/-- An acceptance leaves the invariant: the snapshot is taken from the live values (20_memory.md R65). -/
theorem State.DataInv.acceptCommand {s : State} (h : s.DataInv) (w : Word) : (acceptCommand w s).Inv :=
  State.DataInv.inv { h with } rfl rfl (Nat.zero_le 5) (fun _ => rfl) rfl

/-- Emitting a frame keeps the data part: `ENC_CRC` is what the last two bytes hold (41_encoder.md R136). -/
theorem State.DataInv.emitFrame {s : State} (h : s.DataInv) (la lo : Word) : (emitFrame la lo s).DataInv :=
  { h with
    txbuf_wf := by
      rw [emitFrame_txbuf]
      exact Memory.wf_writeBytes _ 0 h.txbuf_wf
    txbuf_within := by
      rw [emitFrame_txbuf]
      exact Memory.within_writeBytes _ (by simp [Config.txBytes]) h.txbuf_within
    encCrc_is_sent := (emitFrame_encCrc la lo s).trans (emitFrame_sent h.txbuf_wf la lo).symm }

/-- The work of a command keeps the data part of the invariant. -/
theorem Work.keeps_dataInv {s u : State} (hwork : Work s u) (h : s.DataInv) : u.DataInv := by
  cases hwork with
  | nothing => exact h
  | crc c => exact { h with }
  | frame la lo x y => exact { h.emitFrame la lo with }
  | checksums computed received => exact { h with }
  | sample computed received sysId lat lon =>
    exact { h with decLat_in_degrees := halves_append _, decLon_in_degrees := halves_append _ }

/-- A word written to `RXBUF` keeps the data part of the invariant (10_state.md R51). -/
theorem State.DataInv.writeRxWord {s : State} (h : s.DataInv) {k : Nat} (hk : k < 67) (v : Word) :
    State.DataInv { s with rxbuf := Memory.writeBytes s.rxbuf (4 * k) (bytesLE32 v) } :=
  { h with
    rxbuf_wf := Memory.wf_writeBytes _ _ h.rxbuf_wf
    rxbuf_within := Memory.within_writeBytes _ (by simp only [bytesLE32_length, Config.rxBytes]; omega) h.rxbuf_within }

/-- With no command pending the live values are what a command would read, so a change of them keeps the invariant as
far as the data does. -/
theorem State.Inv.with_inputs {s : State} (h : s.Inv) (hidle : s.pend = none) {o : Inputs}
    (hdata : State.DataInv { s with toInputs := o }) : State.Inv { s with toInputs := o } :=
  hdata.inv h.busy_iff_pending h.not_busy_and_done h.err_not_reserved h.err_zero_unless_done
    (operands_of_idle (s := { s with toInputs := o }) hidle)

/-- A block that has the invariant and is not busy has no command pending. -/
theorem State.Inv.pend_none {s : State} (h : s.Inv) (hb : s.status.busy = false) : s.pend = none := by
  simpa [hb] using h.busy_iff_pending

/-- A bus write that takes effect keeps the invariant (20_memory.md R61 to R66). -/
theorem State.Inv.busWrite {s t : State} (h : s.Inv) {size : AccessSize} {a : Offset} {v : Word}
    (hw : busWrite size a v s = some t) : t.Inv := by
  obtain ⟨hb, -, -, b, htarget, hwrite⟩ := busWrite_cases hw
  have hidle := h.pend_none hb
  obtain ⟨r, rfl, hreg⟩ | ⟨k, rfl, rfl⟩ := writeTarget_cases hwrite
  · obtain ⟨-, hframe, hrx⟩ | ⟨-, -, rfl⟩ := writeReg_cases hreg
    · rw [hframe]
      refine h.with_inputs hidle { h.data with rxbuf_wf := ?_, rxbuf_within := ?_ }
      · exact (congrArg Memory.wf hrx).trans h.rxbuf_wf
      · exact (congrArg (Memory.within Config.rxBytes) hrx).trans h.rxbuf_within
    · exact h.data.acceptCommand v
  · exact h.with_inputs hidle (h.data.writeRxWord (busTarget_rxWord htarget).1 v)

/-- The invariant does not speak of the world outside. -/
theorem State.Inv.with_outside {s : State} (h : s.Inv) (es : List Event) (r : Option Response) (n : Nat) :
    State.Inv { s with events := es, resp := r, accepted := n } := { h with }

/-- The state after reset has the invariant (70_reset_and_hazards.md R211): degrees 0.0 beside the wire value 0. -/
theorem reset_inv : State.reset.Inv where
  busy_iff_pending := rfl
  not_busy_and_done := rfl
  err_not_reserved := Nat.zero_le 5
  err_zero_unless_done := fun _ => rfl
  snapshot_is_live := rfl
  txbuf_wf := rfl
  txbuf_within := rfl
  rxbuf_wf := rfl
  rxbuf_within := rfl
  encCrc_is_sent := by decide
  decLat_in_degrees := by decide +kernel
  decLon_in_degrees := by decide +kernel

/-- A turn of the world outside keeps the invariant. -/
theorem State.Inv.takeEvent {s : State} (h : s.Inv) (e : Event) (rest : List Event) : (takeEvent e rest s).Inv := by
  cases e with
  | read size a => exact h.with_outside rest _ s.accepted
  | write size a v =>
    cases hw : Machine.busWrite size a v s with
    | none =>
      rw [takeEvent_write_none hw]
      exact h.with_outside rest _ s.accepted
    | some t =>
      rw [takeEvent_write_some hw]
      exact (h.busWrite hw).with_outside rest _ t.accepted
  | waitIdle => exact h.with_outside _ _ s.accepted
  | reset => exact reset_inv.with_outside rest none s.accepted

theorem State.Inv.hostTurn {s : State} (h : s.Inv) : (hostTurn s).Inv := by
  cases he : s.events with
  | nil => rwa [hostTurn_nil he]
  | cons e rest =>
    rw [hostTurn_cons he]
    exact h.takeEvent e rest

/-- Counting a host step changes neither the snapshot nor whether a command is pending. -/
theorem State.Inv.passHostStep {s : State} (h : s.Inv) : (passHostStep s).Inv :=
  { h with
    busy_iff_pending := by simpa using h.busy_iff_pending
    snapshot_is_live := (passHostStep_operands s).trans h.snapshot_is_live }

end Sys2Proof.Machine

namespace Sys2Proof.Proofs

open Sys2Proof.Machine

/-- Settles O50, by the four things a step can be. -/
theorem invariantKeptByEveryStep : Obligations.InvariantKeptByEveryStep := by
  intro s t hinv hstep
  obtain ⟨p, i, -, -, -, hexec⟩ | ⟨p, e, -, -, -, rfl⟩ | ⟨p, -, -, rfl⟩ | ⟨-, rfl⟩ := step_cases hstep
  · obtain ⟨c, u, hwork, rfl⟩ := exec_completes hexec
    exact (hwork.keeps_dataInv hinv.data).complete c
  · exact hinv.data.complete .illegalCommand
  · exact hinv.passHostStep.hostTurn
  · exact hinv.hostTurn

/-- Settles O51. -/
theorem resetHasTheInvariant : Obligations.ResetHasTheInvariant := reset_inv

/-- Settles O32: every step is a completion or a turn of the world outside, and both answer. -/
theorem everyStepAnswers : Obligations.EveryStepAnswers := step_answers

/-- Settles O31: the errors are those of `exec_error_cases`, and a mismatch is recorded only with verification on. -/
theorem codesByCommand : Obligations.CodesByCommand := by
  intro i s
  obtain ⟨t, ht⟩ := exec_answers i s
  obtain ⟨hpend, hstatus, -⟩ := exec_frame ht
  refine ⟨t, ht, hpend, hstatus, ?_⟩
  by_cases herr : t.status.err = 0
  · exact Or.inl herr
  obtain ⟨hi, -, rfl⟩ | ⟨hi, -, rfl⟩ | ⟨hi, -, rfl⟩ | ⟨computed, received, hi, hd, rfl⟩ := exec_error_cases ht herr
  · exact Or.inr (Or.inl ⟨hi, rfl⟩)
  · exact Or.inr (Or.inr ⟨hi, Or.inl rfl⟩)
  · exact Or.inr (Or.inr ⟨hi, Or.inr (Or.inl rfl)⟩)
  · obtain ⟨-, -, -, -, hverify, hne, rfl, rfl⟩ := decodeFrame_mismatch hd
    exact Or.inr (Or.inr ⟨hi, Or.inr (Or.inr ⟨rfl, hverify, hne⟩)⟩)

end Sys2Proof.Proofs


/-! ### The checksum function: the bit-serial form and its laws (40_crc.md R110 to R120)

One step of the bit-serial CRC is linear over XOR and loses no bit. The byte-wise update is eight such steps of the
accumulator with the byte folded in, and every law of the checksum follows from these three facts. -/

namespace Sys2Proof.Machine

open Sys2Proof.Claims

/-! #### The bit-serial step -/

/-- The step is linear over XOR: the generator is folded in exactly when the bit shifted out is set. -/
theorem serialStep_xor (x y : Half) : serialStep (x ^^^ y) = serialStep x ^^^ serialStep y := by
  have hcancel (a b g : Half) : a ^^^ b = a ^^^ g ^^^ (b ^^^ g) := by
    rw [BitVec.xor_assoc, BitVec.xor_comm b, ← BitVec.xor_assoc g, BitVec.xor_self, BitVec.zero_xor]
  simp only [serialStep, BitVec.getLsbD_xor, BitVec.ushiftRight_xor_distrib]
  cases x.getLsbD 0 <;> cases y.getLsbD 0
  · rfl
  · exact BitVec.xor_assoc ..
  · exact (BitVec.xor_assoc ..).trans ((congrArg _ (BitVec.xor_comm ..)).trans (BitVec.xor_assoc ..).symm)
  · exact hcancel ..

theorem serialStep_iterate_xor (n : Nat) (x y : Half) :
    serialStep^[n] (x ^^^ y) = serialStep^[n] x ^^^ serialStep^[n] y := by
  induction n generalizing x y with
  | zero => rfl
  | succ n ih => simp only [Function.iterate_succ_apply, serialStep_xor, ih]

/-- The bit shifted out stands in bit 15 of the result, where the shift alone leaves 0: the generator has it set. -/
theorem serialStep_bit15 (x : Half) : (serialStep x).getLsbD 15 = x.getLsbD 0 := by
  unfold serialStep
  split <;> simp_all

/-- The step loses no bit. -/
theorem serialStep_injective : Function.Injective serialStep := by
  intro x y h
  have hbit : x.getLsbD 0 = y.getLsbD 0 := by rw [← serialStep_bit15, h, serialStep_bit15]
  have hshift : x >>> 1 = y >>> 1 := by
    unfold serialStep at h
    rw [hbit] at h
    split at h
    · exact (BitVec.xor_left_inj _).1 h
    · exact h
  apply BitVec.eq_of_getLsbD_eq
  intro i hi
  cases i with
  | zero => exact hbit
  | succ i => simpa [Nat.add_comm] using congrArg (·.getLsbD i) hshift

/-! #### The byte-wise update is eight steps -/

/-- Eight steps shift a value with an empty low byte right by a byte: no generator is folded in. -/
theorem serialStep_high : ∀ h : Byte, serialStep^[8] (h.zeroExtend 16 <<< 8) = h.zeroExtend 16 := by
  decide +kernel

/-- Eight steps of a byte are the update of 40_crc.md R110 from the accumulator 0. -/
theorem serialStep_low : ∀ b : Byte, serialStep^[8] (b.zeroExtend 16) = crcAcc 0 b := by
  decide +kernel

theorem zeroExtend_xor (a b : Byte) : (a ^^^ b).zeroExtend 16 = a.zeroExtend 16 ^^^ b.zeroExtend 16 :=
  BitVec.setWidth_xor

/-- A half word is its high byte shifted up, and its low byte. -/
theorem high_xor_low (c : Half) :
    (c.extractLsb' 8 8).zeroExtend 16 <<< 8 ^^^ (c.extractLsb' 0 8).zeroExtend 16 = c := by
  ext i hi
  rcases Nat.lt_or_ge i 8 with h | h
  · simp [h, BitVec.getElem_setWidth, BitVec.getLsbD_extractLsb', BitVec.getLsbD_eq_getElem hi]
  · simp [h, Nat.not_lt.2 h, show i - 8 < 8 by omega, show 8 + (i - 8) = i by omega, BitVec.getElem_setWidth,
      BitVec.getLsbD_eq_getElem hi]

theorem ushiftRight_eight (c : Half) : c >>> 8 = (c.extractLsb' 8 8).zeroExtend 16 := by
  ext i hi
  by_cases h : i < 8 <;> simp [h, BitVec.getElem_setWidth, BitVec.getLsbD_extractLsb']
  exact BitVec.getLsbD_of_ge c (8 + i) (by omega)

/-- The update keeps the high byte of the accumulator apart, and folds the byte into the low one (40_crc.md R110). -/
theorem crcAcc_eq_low (c : Half) (b : Byte) : crcAcc c b = c >>> 8 ^^^ crcAcc 0 (b ^^^ c.extractLsb' 0 8) := by
  simp [crcAcc, BitVec.xor_assoc]

/-- The byte-wise update is eight bit-serial steps (40_crc.md R119). -/
theorem crcAcc_eq_serialByte (c : Half) (b : Byte) : crcAcc c b = serialByte c b := by
  have hsplit : c ^^^ b.zeroExtend 16 =
      (c.extractLsb' 8 8).zeroExtend 16 <<< 8 ^^^ (b ^^^ c.extractLsb' 0 8).zeroExtend 16 := by
    conv_lhs => rw [← high_xor_low c]
    rw [BitVec.xor_assoc, zeroExtend_xor, BitVec.xor_comm (b.zeroExtend 16)]
  rw [serialByte, hsplit, serialStep_iterate_xor, serialStep_high, serialStep_low, ← ushiftRight_eight, crcAcc_eq_low]

theorem crcBytes_eq_serialCrc (c : Half) (bs : List Byte) : crcBytes c bs = serialCrc c bs := by
  induction bs generalizing c with
  | nil => rfl
  | cons b bs ih => rw [crcBytes_cons, ih, crcAcc_eq_serialByte]; rfl

/-! #### Laws of the checksum (40_crc.md R118) -/

theorem crcAcc_xor (c1 c2 : Half) (b1 b2 : Byte) :
    crcAcc (c1 ^^^ c2) (b1 ^^^ b2) = crcAcc c1 b1 ^^^ crcAcc c2 b2 := by
  have hpair : c1 ^^^ c2 ^^^ (b1 ^^^ b2).zeroExtend 16 = c1 ^^^ b1.zeroExtend 16 ^^^ (c2 ^^^ b2.zeroExtend 16) := by
    rw [zeroExtend_xor]
    ac_rfl
  simp only [crcAcc_eq_serialByte, serialByte, hpair, serialStep_iterate_xor]

theorem crcAcc_eq_crcAcc_zero (c : Half) (b : Byte) : crcAcc c b = crcAcc (c ^^^ b.zeroExtend 16) 0 := by
  rw [crcAcc_eq_serialByte, crcAcc_eq_serialByte, serialByte, serialByte]
  congr 1
  exact BitVec.xor_zero.symm

theorem crcBytes_append (c : Half) (bs cs : List Byte) : crcBytes c (bs ++ cs) = crcBytes (crcBytes c bs) cs := by
  induction bs generalizing c with
  | nil => rfl
  | cons b bs ih => exact ih (crcAcc c b)

theorem crcAcc_injective_left (b : Byte) : Function.Injective fun c => crcAcc c b := by
  intro c c' h
  simp only [crcAcc_eq_serialByte, serialByte] at h
  exact (BitVec.xor_left_inj _).1 (serialStep_injective.iterate 8 h)

theorem crcAcc_injective_right (c : Half) : Function.Injective (crcAcc c) := by
  intro b b' h
  simp only [crcAcc_eq_serialByte, serialByte] at h
  have hext := (BitVec.xor_right_inj _).1 (serialStep_injective.iterate 8 h)
  simpa using congrArg (BitVec.setWidth 8) hext

theorem crcBytes_injective_left (bs : List Byte) : Function.Injective fun c => crcBytes c bs := by
  induction bs with
  | nil => exact Function.injective_id
  | cons b bs ih => exact ih.comp (crcAcc_injective_left b)

/-- A run of bytes read in two parts. -/
theorem Memory.readBytes_add (m : Memory) (a n k : Nat) :
    Memory.readBytes m a (n + k) = Memory.readBytes m a n ++ Memory.readBytes m (a + n) k := by
  induction n generalizing a with
  | zero => rw [Nat.zero_add]; rfl
  | succ n ih =>
    rw [Nat.succ_add, Memory.readBytes, Memory.readBytes, ih, List.cons_append, Nat.add_right_comm, Nat.add_assoc]

/-- The checksum of a run of bytes with byte `i` of the buffer in the middle. -/
theorem crcBytes_readBytes_at (m : Memory) {n i : Nat} (c : Half) (hlo : 1 ≤ i) (hhi : i ≤ n) :
    crcBytes c (Memory.readBytes m 1 n) =
      crcBytes (crcAcc (crcBytes c (Memory.readBytes m 1 (i - 1))) (Memory.read m i))
        (Memory.readBytes m (i + 1) (n - i)) := by
  conv_lhs => rw [show n = i - 1 + (n - i + 1) by omega, Memory.readBytes_add, show 1 + (i - 1) = i by omega]
  rw [Memory.readBytes, crcBytes_append, crcBytes_cons]

/-- Changing exactly one covered byte changes the checksum: the bytes before it leave equal accumulators, the byte makes
them differ, and no later byte makes them equal again (40_crc.md R118). -/
theorem frameSum_ne_of_one_byte {m m' : Memory} {n i : Nat} (hlo : 1 ≤ i) (hhi : i ≤ 9 + n)
    (hne : Memory.read m i ≠ Memory.read m' i) (hsame : ∀ j, j ≠ i → Memory.read m j = Memory.read m' j) :
    frameSum m n ≠ frameSum m' n := by
  have hbefore : Memory.readBytes m 1 (i - 1) = Memory.readBytes m' 1 (i - 1) :=
    Memory.readBytes_congr _ _ fun j _ hj => hsame j (by omega)
  have hafter : Memory.readBytes m (i + 1) (9 + n - i) = Memory.readBytes m' (i + 1) (9 + n - i) :=
    Memory.readBytes_congr _ _ fun j hj _ => hsame j (by omega)
  intro h
  have hsum := crcAcc_injective_left 104 h
  rw [crcBytes_readBytes_at m _ hlo hhi, crcBytes_readBytes_at m' _ hlo hhi, hbefore, hafter] at hsum
  exact hne (crcAcc_injective_right _ (crcBytes_injective_left _ hsum))

/-! #### The frame commands and `CRC` (40_crc.md R117) -/

theorem withCrc_operands (c : Half) (s : State) : (withCrc c s).operands = { s.operands with crc := c } := by
  cases h : s.pend <;> simp [withCrc, State.operands, h]

/-- No byte of a frame is taken from `CRC`. -/
theorem emitFrame_withCrc (la lo : Word) (c : Half) (s : State) :
    emitFrame la lo (withCrc c s) =
      { emitFrame la lo s with crc := c, pend := (withCrc c s).pend } := by
  simp only [emitFrame, withCrc_operands, frameBytes, frameChecksum_eq]
  rfl

/-- No check of the decoder reads `CRC`. -/
theorem decodeFrame_withCrc (c : Half) (s : State) :
    decodeFrame (withCrc c s).operands = decodeFrame s.operands := by
  rw [withCrc_operands]
  rfl

theorem scale_lat_withCrc (c : Half) (s : State) :
    scale (withCrc c s).operands.latF64 = scale s.operands.latF64 := by
  rw [withCrc_operands]
  rfl

theorem scale_lon_withCrc (c : Half) (s : State) :
    scale (withCrc c s).operands.lonF64 = scale s.operands.lonF64 := by
  rw [withCrc_operands]
  rfl

theorem encode_ignores_crc (s : State) (c : Half) :
    ∃ t, exec .encode s = .next t ∧ t.crc = s.crc ∧ exec .encode (withCrc c s) = .next { t with crc := c } := by
  obtain ⟨t, ht⟩ := exec_answers .encode s
  refine ⟨t, ht, ?_⟩
  obtain ⟨la, lo, hla, hlo, rfl⟩ | ⟨hrange, rfl⟩ := execEncode_cases ht
  · refine ⟨rfl, ?_⟩
    rw [exec_encode_of_scale ((scale_lat_withCrc c s).trans hla) ((scale_lon_withCrc c s).trans hlo),
      emitFrame_withCrc]
    rfl
  · refine ⟨rfl, ?_⟩
    rw [exec_encode_of_range (by rwa [scale_lat_withCrc, scale_lon_withCrc])]
    rfl

theorem encodeRaw_ignores_crc (s : State) (c : Half) :
    ∃ t, exec .encodeRaw s = .next t ∧ t.crc = s.crc ∧ exec .encodeRaw (withCrc c s) = .next { t with crc := c } := by
  refine ⟨_, exec_encodeRaw s, rfl, ?_⟩
  rw [exec_encodeRaw, emitFrame_withCrc, withCrc_operands]
  rfl

theorem decode_ignores_crc (s : State) (c : Half) :
    ∃ t, exec .decode s = .next t ∧ t.crc = s.crc ∧ exec .decode (withCrc c s) = .next { t with crc := c } := by
  have hsame := decodeFrame_withCrc c s
  cases hd : decodeFrame s.operands with
  | malformed => exact ⟨_, exec_decode_of_malformed hd, rfl, exec_decode_of_malformed (hsame.trans hd)⟩
  | unsupported => exact ⟨_, exec_decode_of_unsupported hd, rfl, exec_decode_of_unsupported (hsame.trans hd)⟩
  | mismatch computed received =>
    exact ⟨_, exec_decode_of_mismatch hd, rfl, exec_decode_of_mismatch (hsame.trans hd)⟩
  | sample computed received sysId lat lon =>
    exact ⟨_, exec_decode_of_sample hd, rfl, exec_decode_of_sample (hsame.trans hd)⟩

end Sys2Proof.Machine

namespace Sys2Proof.Proofs

open Sys2Proof.Machine

/-- Settles O7: the byte-wise update is eight bit-serial steps, and the seed is 0. -/
theorem checksumIsBitSerialCrc : Obligations.ChecksumIsBitSerialCrc :=
  ⟨crcBytes_eq_serialCrc, crcBytes_eq_serialCrc Config.crcSeed, by decide⟩

/-- Settles O8, from the bit-serial step being linear and injective. -/
theorem checksumLaws : Obligations.ChecksumLaws :=
  ⟨crcAcc_xor, crcAcc_eq_crcAcc_zero, crcBytes_append,
    fun b => Finite.injective_iff_bijective.1 (crcAcc_injective_left b),
    fun _ _ _ _ hlo hhi hne hsame => frameSum_ne_of_one_byte hlo hhi hne hsame⟩

/-- Settles O12: the byte folded in is a constant, the same as `CRC_ACC 0x68` gives. -/
theorem crcExtendFoldsExtraByte : Obligations.CrcExtendFoldsExtraByte := by
  refine ⟨by decide, fun s => ?_, fun s => ?_, by decide, by decide⟩
  · rw [exec_crcExtend, complete_eq_finished]
    rfl
  · rw [exec_crcExtend, exec_crcAcc]

/-- Settles O13: each frame command reads and writes the same with any value of `CRC`. -/
theorem frameCommandsIgnoreCrc : Obligations.FrameCommandsIgnoreCrc := by
  rintro i (rfl | rfl | rfl) s c
  · exact encode_ignores_crc s c
  · exact encodeRaw_ignores_crc s c
  · exact decode_ignores_crc s c

end Sys2Proof.Proofs


/-! ### The register map read, and the byte order of the buffers (10_state.md R21, R50, R51; 20_memory.md R66, R68) -/

namespace Sys2Proof.Machine

open Sys2Proof.Claims

theorem mem_allRegs (r : RegName) : r ∈ allRegs := by
  cases r <;> decide

theorem registerTable_offsets : ∀ row ∈ registerTable, regOffset row.reg = row.offset := by
  decide

/-- A narrow value keeps its number on the 32-bit bus. -/
theorem zeroExtend_toNat {n : Nat} (hn : n ≤ 32) (x : BitVec n) : (x.zeroExtend 32).toNat = x.toNat :=
  BitVec.toNat_setWidth_of_le hn

/-- The number each register reads as (10_state.md R21 to R23, R29). -/
theorem readReg_toNat (r : RegName) (s : State) : (readReg r s).toNat = registerValue s r := by
  cases r
  case id0 =>
    have hbase : (0xFD681C00 : Word).toNat = 0xFD681C00 := rfl
    have hlt := Config.compId.isLt
    rw [readReg_id0, BitVec.toNat_add, zeroExtend_toNat (by decide), hbase]
    exact Nat.mod_eq_of_lt (by omega)
  case id1 => rfl
  case status => exact status_toNat s.status
  case ctrl => exact zeroExtend_toNat (n := 3) (by decide) _
  case seq | sysId | decSysId => exact zeroExtend_toNat (n := 8) (by decide) _
  case crc | vx | vy | vz | hdg | encCrc | rxLen | decCrcCalc | decCrcRx =>
    exact zeroExtend_toNat (n := 16) (by decide) _
  all_goals rfl

/-- A read of a mapped word is answered with it (20_memory.md R66). -/
theorem busRead_target {a : Offset} {b : BusTarget} (h : transactionTarget .b32 a = some b) (s : State) :
    busRead .b32 a s = { code := .okay, data := some (readTarget b s) } := by
  rw [busRead, h]
  rfl

/-- A write to an `RXBUF` word of a block that is not busy takes effect (10_state.md R51). -/
theorem busWrite_rxWord {s : State} (hb : s.status.busy = false) {k : Nat} (hk : k < 67) (v : Word) :
    busWrite .b32 (BitVec.ofNat 12 (0x200 + 4 * k)) v s =
      some { s with rxbuf := Memory.writeBytes s.rxbuf (4 * k) (bytesLE32 v) } := by
  simp [busWrite, hb, transactionTarget_rx k hk, writeTarget]

/-- Byte `j` of a word is its bits `[8j+7:8j]` (00_scope.md R11). -/
theorem bytesLE32_getElem (v : Word) {j : Nat} (hj : j < (bytesLE32 v).length) :
    (bytesLE32 v)[j] = v.extractLsb' (8 * j) 8 := by
  rw [bytesLE32_length] at hj
  interval_cases j <;> rfl

/-- A word written to a buffer byte by byte. -/
theorem Memory.read_writeWord {m : Memory} (h : Memory.wf m = true) (a : Nat) (v : Word) {j : Nat} (hj : j < 4) :
    Memory.read (Memory.writeBytes m a (bytesLE32 v)) (a + j) = v.extractLsb' (8 * j) 8 :=
  (Memory.read_writeBytes (bytesLE32 v) a j hj h).trans (bytesLE32_getElem v hj)

/-- A word written to a buffer changes no other byte. -/
theorem Memory.read_writeWord_other (m : Memory) {a x : Nat} (v : Word) (hx : x < a ∨ a + 4 ≤ x) :
    Memory.read (Memory.writeBytes m a (bytesLE32 v)) x = Memory.read m x :=
  Memory.read_writeBytes_other _ m a x hx

end Sys2Proof.Machine

namespace Sys2Proof.Proofs

open Sys2Proof.Machine

/-- Settles O39: every word of the window has its offset, and every register its field. -/
theorem readsFollowTheMap : Obligations.ReadsFollowTheMap :=
  ⟨by decide, rfl, mem_allRegs, registerTable_offsets, fun s r => readReg_toNat r s,
    fun s r => busRead_target (transactionTarget_reg r) s, fun s k hk => busRead_target (transactionTarget_tx k hk) s,
    fun s k hk => busRead_target (transactionTarget_rx k hk) s⟩

/-- Settles O41: the write reaches the word and stores its four bytes, and the read puts them together again. -/
theorem rxWordsAreLittleEndian : Obligations.RxWordsAreLittleEndian := by
  intro s k v hk hb hwf
  refine ⟨_, busWrite_rxWord hb hk v, rfl, fun j hj => Memory.read_writeWord hwf (4 * k) v hj,
    fun a ha => Memory.read_writeWord_other s.rxbuf v ha, ?_⟩
  rw [busRead_target (transactionTarget_rx k hk), readTarget, Memory.word_writeBytes hwf]

/-- Settles O44. -/
theorem resetStateHasTheResetValues : Obligations.ResetStateHasTheResetValues :=
  ⟨readReg_reset, rfl, fun a => ⟨Memory.read_nil a, Memory.read_nil a⟩⟩

/-- Settles O53. -/
theorem buffersAreLittleEndian : Obligations.BuffersAreLittleEndian :=
  fun _ _ => ⟨le16_toNat .., le32_toNat ..⟩

end Sys2Proof.Proofs

/-! ### The steps of the two agents (00_scope.md R8, 20_memory.md R60 to R70, 70_reset_and_hazards.md R210 to R223)

What each turn of the world outside leaves unchanged is said once, and the claims about runs are inductions on the count
of host steps in the latch. -/

namespace Sys2Proof.Machine

open Sys2Proof.Claims

/-! #### The turns of the world outside -/

/-- A poll reads `STATUS` and stays while it shows `BUSY = 1` (30_encoding.md R99). -/
theorem takeEvent_waitIdle (rest : List Event) (s : State) :
    takeEvent .waitIdle rest s =
      answered { code := .okay, data := some (readReg .status s) }
        (if s.status.busy then .waitIdle :: rest else rest) s := by
  rw [takeEvent, busRead_reg]
  rfl

theorem sameResults_refl (s : State) : SameResults s s :=
  ⟨rfl, rfl, rfl, rfl, rfl, rfl, rfl, rfl, rfl, rfl, rfl⟩

/-- The responses and the events are no result. -/
theorem sameResults_answered (r : Response) (rest : List Event) (s : State) : SameResults s (answered r rest s) :=
  sameResults_refl s

/-- A bus write changes no result: those registers and `TXBUF` are read-only (20_memory.md R63, R70). -/
theorem sameResults_busWrite {size : AccessSize} {a : Offset} {v : Word} {s t : State}
    (h : busWrite size a v s = some t) : SameResults s t := by
  obtain ⟨-, -, -, b, -, hwrite⟩ := busWrite_cases h
  obtain ⟨r, rfl, hreg⟩ | ⟨k, rfl, rfl⟩ := writeTarget_cases hwrite
  · obtain ⟨-, hframe, -⟩ | ⟨-, -, rfl⟩ := writeReg_cases hreg
    · rw [hframe]
      exact sameResults_refl s
    · exact sameResults_refl s
  · exact sameResults_refl s

/-- A turn of the world outside that is no reset changes no result. -/
theorem sameResults_takeEvent {e : Event} (he : e ≠ .reset) (rest : List Event) (s : State) :
    SameResults s (takeEvent e rest s) := by
  cases e with
  | read size a => exact sameResults_answered _ rest s
  | write size a v =>
    cases hw : busWrite size a v s with
    | none =>
      rw [takeEvent_write_refused hw]
      exact sameResults_answered _ rest s
    | some t =>
      have hsame := sameResults_busWrite hw
      rw [takeEvent_write_some hw]
      exact hsame
  | waitIdle => exact sameResults_answered _ _ s
  | reset => exact absurd rfl he

theorem sameResults_hostTurn {s : State} (h : s.events.head? ≠ some .reset) : SameResults s (hostTurn s) := by
  cases he : s.events with
  | nil =>
    rw [hostTurn_nil he]
    exact sameResults_refl s
  | cons e rest =>
    rw [hostTurn_cons he]
    exact sameResults_takeEvent (by simpa [he] using h) rest s

/-- No bus write touches the latch of a pending command (20_memory.md R64, R65). -/
theorem busWrite_pend {size : AccessSize} {a : Offset} {v : Word} {s t : State} (h : busWrite size a v s = some t)
    (hp : s.pend ≠ none) : t.pend = s.pend := by
  obtain ⟨-, -, -, b, -, hwrite⟩ := busWrite_cases h
  obtain ⟨r, rfl, hreg⟩ | ⟨k, rfl, rfl⟩ := writeTarget_cases hwrite
  · obtain ⟨-, hframe, -⟩ | ⟨-, hnone, -⟩ := writeReg_cases hreg
    · rw [hframe]
    · exact absurd hnone hp
  · rfl

/-- A turn of the world outside keeps the latch of a pending command, or empties it by a reset. -/
theorem takeEvent_pend {s : State} (hp : s.pend ≠ none) (e : Event) (rest : List Event) :
    (takeEvent e rest s).pend = s.pend ∨ (takeEvent e rest s).pend = none := by
  cases e with
  | read size a => exact Or.inl rfl
  | write size a v =>
    cases hw : busWrite size a v s with
    | none =>
      rw [takeEvent_write_none hw]
      exact Or.inl rfl
    | some t =>
      have hkeep := busWrite_pend hw hp
      rw [takeEvent_write_some hw]
      exact Or.inl hkeep
  | waitIdle => exact Or.inl rfl
  | reset => exact Or.inr rfl

/-! #### Runs with a command pending -/

/-- Counting a host step of a pending command lowers the count in the latch (notes/assumptions/2.md). -/
theorem passHostStep_of_pending {s : State} {p : Pending} (h : s.pend = some p) :
    passHostStep s = { s with pend := some { p with wait := p.wait - 1 } } := by
  simp [passHostStep, h]

/-- A step while the count has not run out takes the next event and lowers the count. -/
theorem step_takes_event {s : State} {p : Pending} {e : Event} {rest : List Event} (h : s.pend = some p)
    (hw : p.wait ≠ 0) (he : s.events = e :: rest) :
    step s = .next (takeEvent e rest { s with pend := some { p with wait := p.wait - 1 } }) := by
  rw [step_waiting h (by simp [he]) hw, passHostStep_of_pending h]
  exact congrArg _ (hostTurn_cons he)

theorem step_engineDue {s : State} {p : Pending} (h : EngineDue p s) : step s = completionStep p s := by
  obtain ⟨hp, he | hw⟩ := h
  · exact step_alone hp he
  · exact step_due hp hw

/-- A pending command ends within its count of host steps and one more: the engine completes it, or a reset discards
it. -/
theorem pending_ends {n : Nat} : ∀ {s : State} {p : Pending}, s.pend = some p → p.wait = n →
    ∃ k t, k ≤ n + 1 ∧ core.run k s = .next t ∧ t.pend = none := by
  induction n with
  | zero =>
    intro s p hp hw
    obtain ⟨t, ht, hnone, -⟩ := completionStep_frame p s
    exact ⟨1, t, Nat.le_refl 1, core_run_succ ((step_due hp hw).trans ht) 0, hnone⟩
  | succ n ih =>
    intro s p hp hw
    cases he : s.events with
    | nil =>
      obtain ⟨t, ht, hnone, -⟩ := completionStep_frame p s
      exact ⟨1, t, by omega, core_run_succ ((step_alone hp he).trans ht) 0, hnone⟩
    | cons e rest =>
      have hstep := step_takes_event hp (by omega) he
      obtain hkeep | hgone := takeEvent_pend (s := { s with pend := some { p with wait := p.wait - 1 } }) nofun e rest
      · obtain ⟨k, t, hk, hrun, hnone⟩ := ih hkeep (by simp [hw])
        exact ⟨k + 1, t, by omega, (core_run_succ hstep k).trans hrun, hnone⟩
      · exact ⟨1, _, by omega, core_run_succ hstep 0, hgone⟩

/-- A host that polls a busy block is still polling when the count has run out; only the kept response has changed. -/
theorem run_while_polling {n : Nat} : ∀ {s : State} {p : Pending} {rest : List Event}, s.pend = some p → p.wait = n →
    s.status.busy = true → s.events = .waitIdle :: rest →
    ∃ r, core.run n s = .next { s with pend := some { p with wait := 0 }, resp := r } := by
  induction n with
  | zero =>
    intro s p rest hp hw _ _
    refine ⟨s.resp, ?_⟩
    rw [core_run_zero, ← hw, ← hp]
  | succ n ih =>
    intro s p rest hp hw hb he
    have hstep := step_takes_event hp (by omega) he
    rw [takeEvent_waitIdle] at hstep
    simp only [hb, if_true, ← he] at hstep
    obtain ⟨r, hr⟩ := ih (rest := rest) (s := answered _ s.events { s with pend := some { p with wait := p.wait - 1 } })
      rfl (by simp [hw]) hb he
    exact ⟨r, (core_run_succ hstep n).trans hr⟩

/-- A run of `k` steps and then of `l`. -/
theorem core_run_add {k : Nat} : ∀ {s t : State}, core.run k s = .next t → ∀ l, core.run (k + l) s = core.run l t := by
  induction k with
  | zero =>
    intro s t h l
    rw [core_run_zero] at h
    rw [Nat.zero_add, Host.Outcome.next.inj h]
  | succ k ih =>
    intro s t h l
    obtain ⟨u, hu⟩ := step_answers s
    rw [core_run_succ hu] at h
    rw [Nat.succ_add, core_run_succ hu, ih h]

/-- A poll of an idle block ends, with `BUSY = 0` read (30_encoding.md R99). -/
theorem step_poll_idle {s : State} {rest : List Event} (hp : s.pend = none) (hb : s.status.busy = false)
    (he : s.events = .waitIdle :: rest) :
    step s = .next (answered { code := .okay, data := some s.status.toWord } rest s) := by
  rw [step_idle hp, hostTurn_cons he, takeEvent_waitIdle, hb]
  rfl

end Sys2Proof.Machine

namespace Sys2Proof.Proofs

open Sys2Proof.Machine Sys2Proof.Claims

/-- Settles O52. -/
theorem turnsAreBusTransactions : Obligations.TurnsAreBusTransactions :=
  ⟨fun s size a rest => takeEvent_read_answered size a rest s,
    fun _ _ _ _ _ rest h => takeEvent_write_some h rest,
    fun _ _ _ _ rest h => takeEvent_write_refused h rest,
    fun s rest => takeEvent_waitIdle rest s, fun _ _ => rfl⟩

/-- Settles O33: the engine's step by the word in the latch, and the turns of the world outside. -/
theorem stepRunsThePendingCommand : Obligations.StepRunsThePendingCommand := by
  refine ⟨fun s p i hdue hi => ?_, fun s p e hdue he => ?_, fun s p e rest hp hw he => step_takes_event hp hw he,
    fun s e rest hp he => ?_, fun s hp he => ?_⟩
  · rw [step_engineDue hdue, completionStep, hi]
  · rw [step_engineDue hdue, completionStep_illegal he, completeIllegal_eq_finished]
  · rw [step_idle hp, hostTurn_cons he]
  · rw [step_idle hp, hostTurn_nil he]

/-- Settles O45: a completion empties the latch, and a turn of the world outside writes no result but by a reset. -/
theorem resultsChangeOnlyAtCompletion : Obligations.ResultsChangeOnlyAtCompletion := by
  intro s t hstep hpend hevent
  obtain ⟨p, i, hp, -, -, hexec⟩ | ⟨p, e, hp, -, -, rfl⟩ | ⟨p, -, -, rfl⟩ | ⟨-, rfl⟩ := step_cases hstep
  · simp [hp, (exec_frame hexec).1] at hpend
  · simp [hp, completeIllegal] at hpend
  · exact sameResults_hostTurn (s := passHostStep s) hevent
  · exact sameResults_hostTurn hevent

/-- Settles O46, by induction on the count in the latch. -/
theorem pendingCommandsEnd : Obligations.PendingCommandsEnd := fun _ _ hp => pending_ends hp rfl

/-- Settles O47: an idle block ends the poll at once; a busy one after its count has run out and the command has
completed. -/
theorem waitFinishes : Obligations.WaitFinishes := by
  intro s rest hinv he
  cases hp : s.pend with
  | none =>
    have hb : s.status.busy = false := by simpa [hp] using hinv.busy_iff_pending
    exact ⟨1, _, core_run_succ (step_poll_idle hp hb he) 0, rfl, hp, rfl, hb⟩
  | some p =>
    have hb : s.status.busy = true := by simpa [hp] using hinv.busy_iff_pending
    obtain ⟨r, hpoll⟩ := run_while_polling hp rfl hb he
    obtain ⟨t, ht, hnone, hidle, hevents⟩ :=
      completionStep_frame { p with wait := 0 } { s with pend := some { p with wait := 0 }, resp := r }
    have hlast := step_poll_idle hnone hidle (hevents.trans he)
    refine ⟨p.wait + 2, answered { code := .okay, data := some t.status.toWord } rest t,
      (core_run_add hpoll 2).trans ?_, rfl, hnone, rfl, hidle⟩
    rw [core_run_succ ((step_due rfl rfl).trans ht), core_run_succ hlast, core_run_zero]

end Sys2Proof.Proofs


/-! ### Host lines that run to an end: `LDRX` and `CMDW` (30_encoding.md R99, 70_reset_and_hazards.md R223) -/

namespace Sys2Proof.Machine

open Sys2Proof.Claims

/-! #### `LDRX` -/

/-- Byte `i` of a list, 0x00 past its end, as `LDRX` pads it (30_encoding.md R99). -/
def paddedByte (bs : List Byte) (i : Nat) : Byte := (bs[i]?).getD 0x00

@[simp] theorem paddedByte_drop (bs : List Byte) (n i : Nat) : paddedByte (bs.drop n) i = paddedByte bs (n + i) := by
  simp [paddedByte, List.getElem?_drop]

/-- The word `LDRX` writes first. -/
def firstWord (bs : List Byte) : Word :=
  le32 (paddedByte bs 0) (paddedByte bs 1) (paddedByte bs 2) (paddedByte bs 3)

/-- `LDRX` writes the first four bytes and goes on with the rest (30_encoding.md R99). -/
theorem ldrxEvents_of_ne_nil (k : Nat) {bs : List Byte} (h : bs ≠ []) :
    ldrxEvents k bs =
      .write .b32 (BitVec.ofNat 12 (0x200 + 4 * k)) (firstWord bs) :: ldrxEvents (k + 1) (bs.drop 4) := by
  match bs with
  | [] => exact absurd rfl h
  | [_] => rfl
  | [_, _] => rfl
  | [_, _, _] => rfl
  | _ :: _ :: _ :: _ :: _ => rfl

/-- The bytes of a word put together from bytes (00_scope.md R11). -/
theorem bytesLE32_le32 (b0 b1 b2 b3 : Byte) : bytesLE32 (le32 b0 b1 b2 b3) = [b0, b1, b2, b3] := by
  have h0 := b0.isLt
  have h1 := b1.isLt
  have h2 := b2.isLt
  have h3 := b3.isLt
  simp only [bytesLE32, List.cons.injEq, and_true]
  refine ⟨?_, ?_, ?_, ?_⟩ <;>
    · apply BitVec.eq_of_toNat_eq
      rw [BitVec.extractLsb'_toNat, le32_toNat, Nat.shiftRight_eq_div_pow]
      omega

/-- The first word holds the first four bytes, padded. -/
theorem read_writeFirstWord {m : Memory} (h : Memory.wf m = true) (a : Nat) (bs : List Byte) {i : Nat} (hi : i < 4) :
    Memory.read (Memory.writeBytes m a (bytesLE32 (firstWord bs))) (a + i) = paddedByte bs i := by
  have hbytes := Memory.read_writeBytes (bytesLE32 (firstWord bs)) a i hi h
  simp only [firstWord, bytesLE32_le32] at hbytes ⊢
  rw [hbytes]
  interval_cases i <;> rfl

/-- The host step of an idle block that writes an `RXBUF` word. -/
theorem step_writes_rxWord {s : State} (hp : s.pend = none) (hb : s.status.busy = false) {k : Nat} (hk : k < 67)
    {v : Word} {rest : List Event} (he : s.events = .write .b32 (BitVec.ofNat 12 (0x200 + 4 * k)) v :: rest) :
    step s = .next { s with
      rxbuf := Memory.writeBytes s.rxbuf (4 * k) (bytesLE32 v), events := rest, resp := some okayWrite } := by
  rw [step_idle hp, hostTurn_cons he, takeEvent_write_some (busWrite_rxWord hb hk v)]
  rfl

/-- The run of the `n` words of `LDRX` from bus word `k` on. -/
theorem run_ldrx (n : Nat) : ∀ {s : State} {k : Nat} {bs : List Byte} {rest : List Event}, (bs.length + 3) / 4 = n →
    4 * k + bs.length ≤ 268 → s.pend = none → s.status.busy = false → Memory.wf s.rxbuf = true →
    s.events = ldrxEvents k bs ++ rest →
    ∃ m, core.run n s = .next { s with
        rxbuf := m, events := rest, resp := if n = 0 then s.resp else some okayWrite } ∧
      (∀ i, i < 4 * n → Memory.read m (4 * k + i) = paddedByte bs i) ∧
      ∀ a, a < 4 * k ∨ 4 * k + 4 * n ≤ a → Memory.read m a = Memory.read s.rxbuf a := by
  induction n with
  | zero =>
    intro s k bs rest hn hlen hp hb hwf he
    obtain rfl : bs = [] := List.eq_nil_of_length_eq_zero (by omega)
    exact ⟨s.rxbuf, by rw [core_run_zero, if_pos rfl, ← show s.events = rest from he], nofun, fun _ _ => rfl⟩
  | succ n ih =>
    intro s k bs rest hn hlen hp hb hwf he
    have hne : bs ≠ [] := by
      rintro rfl
      simp at hn
    have hpos := List.length_pos_iff.2 hne
    rw [ldrxEvents_of_ne_nil k hne] at he
    have hstep := step_writes_rxWord hp hb (by omega) he
    obtain ⟨m, hrun, hin, hout⟩ := ih (k := k + 1) (bs := bs.drop 4) (rest := rest)
      (s := { s with
        rxbuf := Memory.writeBytes s.rxbuf (4 * k) (bytesLE32 (firstWord bs))
        events := ldrxEvents (k + 1) (bs.drop 4) ++ rest, resp := some okayWrite })
      (by rw [List.length_drop]; omega) (by rw [List.length_drop]; omega) hp hb (Memory.wf_writeBytes _ _ hwf) rfl
    refine ⟨m, ?_, fun i hi => ?_, fun a ha => ?_⟩
    · rw [core_run_succ hstep]
      simpa using hrun
    · rcases Nat.lt_or_ge i 4 with hlt | hge
      · rw [hout _ (by omega), read_writeFirstWord hwf (4 * k) bs hlt]
      · have hi' := hin (i - 4) (by omega)
        rwa [paddedByte_drop, Nat.add_sub_cancel' hge, show 4 * (k + 1) + (i - 4) = 4 * k + i by omega] at hi'
    · rw [hout a (by omega), Memory.read_writeWord_other _ _ (by omega)]

/-! #### `CMDW` -/

/-- A frame is built from the operands alone. -/
theorem emitFrame_of_equal_operands {la lo : Word} {s : State} {st : Status} {p : Option Pending} {es : List Event}
    {r : Option Response} {n : Nat}
    (hop : State.operands { s with status := st, pend := p, events := es, resp := r, accepted := n } = s.operands) :
    emitFrame la lo { s with status := st, pend := p, events := es, resp := r, accepted := n } =
      { emitFrame la lo s with status := st, pend := p, events := es, resp := r, accepted := n } := by
  simp only [emitFrame, hop]

/-- The work of a command does not depend on `STATUS`, on the latch beyond the operands it gives, or on the world
outside (70_reset_and_hazards.md R223). -/
theorem exec_of_equal_operands {i : Instr} {s u : State} {st : Status} {p : Option Pending} {es : List Event}
    {r : Option Response} {n : Nat}
    (hop : State.operands { s with status := st, pend := p, events := es, resp := r, accepted := n } = s.operands)
    (h : exec i s = .next u) :
    exec i { s with status := st, pend := p, events := es, resp := r, accepted := n } =
      .next { u with events := es, resp := r, accepted := n } := by
  cases i with
  | nop =>
    cases (exec_nop s).symm.trans h
    rfl
  | crcAcc b =>
    cases (exec_crcAcc b s).symm.trans h
    rw [exec_crcAcc, hop]
    rfl
  | crcExtend =>
    cases (exec_crcExtend s).symm.trans h
    rw [exec_crcExtend, hop]
    rfl
  | crcClear =>
    cases (exec_crcClear s).symm.trans h
    rfl
  | encodeRaw =>
    cases (exec_encodeRaw s).symm.trans h
    rw [exec_encodeRaw, emitFrame_of_equal_operands hop, hop]
    rfl
  | encode =>
    obtain ⟨la, lo, hla, hlo, rfl⟩ | ⟨hrange, rfl⟩ := execEncode_cases h
    · rw [exec_encode_of_scale (by rw [hop]; exact hla) (by rw [hop]; exact hlo), emitFrame_of_equal_operands hop]
      rfl
    · rw [exec_encode_of_range (by rw [hop]; exact hrange)]
      rfl
  | decode =>
    obtain ⟨hd, rfl⟩ | ⟨hd, rfl⟩ | ⟨_, _, hd, rfl⟩ | ⟨_, _, _, _, _, hd, rfl⟩ := execDecode_cases h
    · rw [exec_decode_of_malformed (by rwa [hop])]
      rfl
    · rw [exec_decode_of_unsupported (by rwa [hop])]
      rfl
    · rw [exec_decode_of_mismatch (by rwa [hop])]
      rfl
    · rw [exec_decode_of_sample (by rwa [hop])]
      rfl

/-- The host step of an idle block that writes a command word to `CMD` (20_memory.md R65). -/
theorem step_writes_cmd {s : State} (hp : s.pend = none) (hb : s.status.busy = false) {i : Instr} {rest : List Event}
    (he : s.events = commandEvent i :: rest) :
    step s = .next { acceptCommand (encodeCmd i) s with events := rest, resp := some okayWrite } := by
  rw [step_idle hp, hostTurn_cons he]
  exact congrArg _ (takeEvent_write_some (busWrite_cmd hp hb (encodeCmd i)) rest)

/-- The idle block `s` with command word `w` accepted and its count run out, and a host that still polls. -/
def awaitingCompletion (w : Word) (r : Option Response) (rest : List Event) (s : State) : State :=
  { s with
    status := statusAccepted, pend := some ⟨w, s.toInputs, 0⟩, events := .waitIdle :: rest, resp := r
    accepted := s.accepted + 1 }

/-- An idle block whose next events are `CMDW` comes to the completion of the command. -/
theorem run_accepts {s : State} (hp : s.pend = none) (hb : s.status.busy = false) {i : Instr} {rest : List Event}
    (he : s.events = commandEvent i :: .waitIdle :: rest) :
    ∃ k r, core.run k s = .next (awaitingCompletion (encodeCmd i) r rest s) := by
  obtain ⟨r, hpoll⟩ := run_while_polling (rest := rest)
    (s := { acceptCommand (encodeCmd i) s with events := .waitIdle :: rest, resp := some okayWrite }) rfl rfl rfl rfl
  exact ⟨_, r, (core_run_succ (step_writes_cmd hp hb he) _).trans hpoll⟩

/-- The completion reads the snapshot, which holds the live values of the idle block (10_state.md R24). -/
theorem step_awaitingCompletion {s u : State} (hp : s.pend = none) {i : Instr} (h : exec i s = .next u)
    (r : Option Response) (rest : List Event) :
    step (awaitingCompletion (encodeCmd i) r rest s) =
      .next { u with events := .waitIdle :: rest, resp := r, accepted := s.accepted + 1 } := by
  rw [step_engineDue (p := ⟨encodeCmd i, s.toInputs, 0⟩) ⟨rfl, Or.inr rfl⟩, completionStep, decodeCmd_encodeCmd]
  exact exec_of_equal_operands (operands_of_idle hp).symm h

end Sys2Proof.Machine

namespace Sys2Proof.Proofs

open Sys2Proof.Machine Sys2Proof.Claims

/-- Settles O48, by induction on the number of words. -/
theorem ldrxLoadsTheBytes : Obligations.LdrxLoadsTheBytes := by
  intro s bs rest hwell hp hb hwf he
  simp only [HostLine.wellFormed, Bool.and_eq_true, decide_eq_true_eq] at hwell
  obtain ⟨hpos, hlen⟩ := hwell
  obtain ⟨m, hrun, hin, hout⟩ := run_ldrx _ (k := 0) rfl (by omega) hp hb hwf he
  rw [if_neg (by omega)] at hrun
  refine ⟨_, hrun, fun i hi => ?_, fun i hi => hout i (by omega), rfl⟩
  have hbyte := hin i hi
  rwa [Nat.mul_zero, Nat.zero_add] at hbyte

/-- Settles O49: the word is accepted, the host polls until the count has run out, the command completes with the
snapshot, which is the idle state's live values, and the last poll reads `BUSY = 0`. -/
theorem cmdwHasTheCommandsEffect : Obligations.CmdwHasTheCommandsEffect := by
  intro s i rest hp hb he
  obtain ⟨u, hu⟩ := exec_answers i s
  obtain ⟨hnone, hstatus, -⟩ := exec_frame hu
  obtain ⟨k, r, haccept⟩ := run_accepts hp hb he
  have hlast := step_poll_idle (s := { u with events := .waitIdle :: rest, resp := r, accepted := s.accepted + 1 })
    hnone (congrArg Status.busy hstatus) rfl
  refine ⟨k + 2, u, hu, (core_run_add haccept 2).trans ?_⟩
  exact (core_run_succ (step_awaitingCompletion hp hu r rest) 1).trans (core_run_succ hlast 0)

end Sys2Proof.Proofs


/-! ### What a frame depends on, and the way back (41_encoder.md R141, 42_decoder.md R170 to R173)

`ENCODE` reads ten registers, and `DECODE` reads the bytes of the frame: the verdict of the decoder is the same on any
two buffers that agree on them. -/

namespace Sys2Proof.Machine

open Sys2Proof.Claims

/-! #### The operands of `ENCODE` -/

/-- The operands of `ENCODE` alone, every other input as reset leaves it (41_encoder.md R141). -/
def Inputs.ofEncode (o : Inputs) : Inputs :=
  { Inputs.reset with
    seq := o.seq, sysId := o.sysId, time := o.time, latF64Lo := o.latF64Lo, latF64Hi := o.latF64Hi
    lonF64Lo := o.lonF64Lo, lonF64Hi := o.lonF64Hi, alt := o.alt, relAlt := o.relAlt, vx := o.vx, vy := o.vy
    vz := o.vz, hdg := o.hdg }

theorem frameChecksum_ofEncode (c : Byte) (o : Inputs) (la lo : Word) :
    frameChecksum c o.ofEncode la lo = frameChecksum c o la lo := by
  rw [frameChecksum_eq, frameChecksum_eq]
  rfl

theorem frameBytes_ofEncode (c : Byte) (o : Inputs) (la lo : Word) :
    frameBytes c o.ofEncode la lo = frameBytes c o la lo := by
  rw [frameBytes, frameBytes, frameChecksum_ofEncode]
  rfl

theorem latF64_ofEncode (o : Inputs) : o.ofEncode.latF64 = o.latF64 := rfl

theorem lonF64_ofEncode (o : Inputs) : o.ofEncode.lonF64 = o.lonF64 := rfl

/-- States with equal operands of `ENCODE` emit equal frames. -/
theorem emitFrame_of_equal_ofEncode {s s' : State} (hwf : Memory.wf s.txbuf = true) (hwf' : Memory.wf s'.txbuf = true)
    (h : s.operands.ofEncode = s'.operands.ofEncode) (la lo : Word) :
    (emitFrame la lo s).encCrc = (emitFrame la lo s').encCrc ∧
      ∀ a, a < 40 → Memory.read (emitFrame la lo s).txbuf a = Memory.read (emitFrame la lo s').txbuf a := by
  constructor
  · rw [emitFrame_encCrc, emitFrame_encCrc, ← frameChecksum_ofEncode, h, frameChecksum_ofEncode]
  · intro a ha
    have hbytes : frameBytes Config.compId s.operands la lo = frameBytes Config.compId s'.operands la lo := by
      rw [← frameBytes_ofEncode, h, frameBytes_ofEncode]
    rw [emitFrame_read hwf la lo ha, emitFrame_read hwf' la lo ha]
    simp only [hbytes]

/-! #### What the decoder reads -/

/-- Buffers that are long enough for one frame, agree on its bytes from 1 on, and are judged under the same two switches
get the same verdict (42_decoder.md R170 to R172). -/
theorem decodeFrame_of_equal_frame {o o' : Inputs} (hlong : 12 + o.rxDeclared ≤ o.rxLength)
    (hlong' : 12 + o.rxDeclared ≤ o'.rxLength)
    (hbytes : ∀ i, 1 ≤ i → i < 12 + o.rxDeclared → Memory.read o.rxbuf i = Memory.read o'.rxbuf i)
    (hverify : o.verifyCrc = o'.verifyCrc) (hstrict : o.strictLen = o'.strictLen) :
    decodeFrame o = decodeFrame o' := by
  have hdecl : o.rxDeclared = o'.rxDeclared := congrArg BitVec.toNat (hbytes 1 (by omega) (by omega))
  have htype : o.rxMsgId = o'.rxMsgId := by
    rw [Inputs.rxMsgId, hbytes 7 (by omega) (by omega), hbytes 8 (by omega) (by omega), hbytes 9 (by omega) (by omega)]
    rfl
  have hcalc : o.calcChecksum = o'.calcChecksum := by
    rw [Inputs.calcChecksum, Inputs.calcChecksum, ← hdecl,
      Memory.readBytes_congr (m' := o'.rxbuf) _ _ fun i h1 h2 => hbytes i h1 (by omega)]
  have hsum : o.rxChecksum = o'.rxChecksum := by
    rw [Inputs.rxChecksum, Inputs.rxChecksum, ← hdecl]
    exact Memory.half_congr fun i h1 h2 => hbytes i (by omega) (by omega)
  rw [decodeFrame_long hlong, decodeFrame_long (hdecl ▸ hlong'), ← hdecl, ← htype, ← hcalc, ← hsum, ← hverify,
    ← hstrict]
  cases hrej : lengthRejected o.strictLen o.rxDeclared with
  | true => rfl
  | false =>
    have hlen : 12 ≤ o.rxDeclared := by
      obtain ⟨h28, h12⟩ := (lengthRejected_eq_false_iff _ _).1 hrej
      cases hs : o.strictLen with
      | true => rw [h28 hs]; decide
      | false => exact h12 hs
    have hsys : o.rxSysId = o'.rxSysId := hbytes 5 (by omega) (by omega)
    have hlat : o.rxLat = o'.rxLat := Memory.word_congr fun i h1 h2 => hbytes i (by omega) (by omega)
    have hlon : o.rxLon = o'.rxLon := Memory.word_congr fun i h1 h2 => hbytes i (by omega) (by omega)
    rw [hsys, hlat, hlon]

/-- A buffer of the same length gets the same verdict, also when it is too short for a frame (42_decoder.md R170). -/
theorem decodeFrame_of_equal_length {o o' : Inputs} (hlen : o.rxLength = o'.rxLength)
    (hbytes : ∀ i, 1 ≤ i → i < min o.rxLength (12 + o.rxDeclared) → Memory.read o.rxbuf i = Memory.read o'.rxbuf i)
    (hverify : o.verifyCrc = o'.verifyCrc) (hstrict : o.strictLen = o'.strictLen) :
    decodeFrame o = decodeFrame o' := by
  rcases Nat.lt_or_ge o.rxLength 10 with hshort | hheader
  · rw [decodeFrame_short (Or.inl hshort), decodeFrame_short (Or.inl (hlen ▸ hshort))]
  · have hdecl : o.rxDeclared = o'.rxDeclared := congrArg BitVec.toNat (hbytes 1 (by omega) (by omega))
    rcases Nat.lt_or_ge o.rxLength (12 + o.rxDeclared) with hshort | hlong
    · rw [decodeFrame_short (Or.inr hshort), decodeFrame_short (Or.inr (by omega))]
    · exact decodeFrame_of_equal_frame hlong (hlen ▸ hlong) (fun i h1 h2 => hbytes i h1 (by omega)) hverify hstrict

/-- `DECODE` with equal verdicts and equal results before it leaves equal results. -/
theorem exec_decode_of_equal_verdict {s s' : State} (hd : decodeFrame s.operands = decodeFrame s'.operands)
    (hres : SameResults s s') :
    ∃ t t', exec .decode s = .next t ∧ exec .decode s' = .next t' ∧ t.status = t'.status ∧ SameResults t t' := by
  have hres' := hres
  obtain ⟨htx, henc, hsys, hlat, hlon, hlatLo, hlatHi, hlonLo, hlonHi, -, -⟩ := hres'
  cases hv : decodeFrame s.operands with
  | malformed =>
    exact ⟨_, _, exec_decode_of_malformed hv, exec_decode_of_malformed (hd.symm.trans hv), rfl, hres⟩
  | unsupported =>
    exact ⟨_, _, exec_decode_of_unsupported hv, exec_decode_of_unsupported (hd.symm.trans hv), rfl, hres⟩
  | mismatch computed received =>
    exact ⟨_, _, exec_decode_of_mismatch hv, exec_decode_of_mismatch (hd.symm.trans hv), rfl,
      htx, henc, hsys, hlat, hlon, hlatLo, hlatHi, hlonLo, hlonHi, rfl, rfl⟩
  | sample computed received sysId lat lon =>
    exact ⟨_, _, exec_decode_of_sample hv, exec_decode_of_sample (hd.symm.trans hv), rfl,
      htx, henc, rfl, rfl, rfl, rfl, rfl, rfl, rfl, rfl, rfl⟩

/-! #### A frame in the receive buffer -/

/-- The verdict on a buffer that begins with a frame, under any `CTRL` (42_decoder.md R173). -/
theorem decodeFrame_of_holdsFrame {o e : Inputs} {la lo : Word} (hframe : HoldsFrame o.rxbuf e la lo)
    (hlen : o.rxLen = 40) :
    decodeFrame o = .sample (Memory.half o.rxbuf 38) (Memory.half o.rxbuf 38) e.sysId la lo := by
  obtain ⟨hhead, -, hla, hlo, -, -, -, -, -, -, hsum⟩ := hframe
  simp only [Memory.readBytes, List.cons.injEq] at hhead
  obtain ⟨-, h1, -, -, -, h5, -, h7, h8, h9, -⟩ := hhead
  have hdecl : declared o = 28 := congrArg BitVec.toNat h1
  have hlong : LongEnough o := by
    rw [LongEnough, hdecl, hlen]
    decide
  have haccepted : LengthAccepted o := ⟨fun _ => hdecl, fun _ => by rw [hdecl]; decide⟩
  have hrx : receivedSum o = Memory.half o.rxbuf 38 := by rw [receivedSum, hdecl]
  have hcalc : frameSum o.rxbuf (declared o) = Memory.half o.rxbuf 38 := by rw [hdecl, hsum]
  rw [decodeFrame_of_passed_checksums hlong ⟨h7, h8, h9⟩ haccepted (Or.inr (hcalc.trans hrx.symm)), hcalc, hrx,
    Inputs.rxSysId, Inputs.rxLat, Inputs.rxLon, hla, hlo, h5]

/-- The bytes of a frame in another buffer are that frame. -/
theorem holdsFrame_of_read {m m' : Memory} {o : Inputs} {la lo : Word} (h : HoldsFrame m o la lo)
    (hbytes : ∀ i, i < 40 → Memory.read m' i = Memory.read m i) : HoldsFrame m' o la lo := by
  have hword {i : Nat} (hi : i + 4 ≤ 40) : Memory.word m' i = Memory.word m i :=
    Memory.word_congr fun j _ hj => hbytes j (by omega)
  have hhalf {i : Nat} (hi : i + 2 ≤ 40) : Memory.half m' i = Memory.half m i :=
    Memory.half_congr fun j _ hj => hbytes j (by omega)
  have hhead : Memory.readBytes m' 0 10 = Memory.readBytes m 0 10 :=
    Memory.readBytes_congr _ _ fun i _ hi => hbytes i (by omega)
  have hsum : frameSum m' 28 = frameSum m 28 := by
    rw [frameSum, frameSum, Memory.readBytes_congr _ _ fun i _ hi => hbytes i (by omega)]
  unfold HoldsFrame
  rwa [hhead, hword (by decide), hword (by decide), hword (by decide), hword (by decide), hword (by decide),
    hhalf (by decide), hhalf (by decide), hhalf (by decide), hhalf (by decide), hhalf (by decide), hsum]

end Sys2Proof.Machine

namespace Sys2Proof.Proofs

open Sys2Proof.Machine Sys2Proof.Claims

/-- Settles O23: equal operands scale alike and emit equal frames. -/
theorem frameDependsOnOperandsOnly : Obligations.FrameDependsOnOperandsOnly := by
  intro s s' hwf hwf' hseq hsys htime hlatLo hlatHi hlonLo hlonHi halt hrel hvx hvy hvz hhdg
  have hops : s.operands.ofEncode = s'.operands.ofEncode := by
    simp only [Inputs.ofEncode, hseq, hsys, htime, hlatLo, hlatHi, hlonLo, hlonHi, halt, hrel, hvx, hvy, hvz, hhdg]
  have hlat : s.operands.latF64 = s'.operands.latF64 := by
    rw [← latF64_ofEncode, hops, latF64_ofEncode]
  have hlon : s.operands.lonF64 = s'.operands.lonF64 := by
    rw [← lonF64_ofEncode, hops, lonF64_ofEncode]
  obtain ⟨t, ht⟩ := exec_answers .encode s
  obtain ⟨la, lo, hla, hlo, rfl⟩ | ⟨hrange, rfl⟩ := execEncode_cases ht
  · exact ⟨_, _, ht, exec_encode_of_scale (hlat ▸ hla) (hlon ▸ hlo), rfl,
      fun _ => emitFrame_of_equal_ofEncode hwf hwf' hops la lo⟩
  · have hfour : (4 : BitVec 4) ≠ 0 := by decide
    exact ⟨_, _, ht, exec_encode_of_range (by rw [← hlat, ← hlon]; exact hrange), rfl, fun h => absurd h hfour⟩

/-- Settles O28: the verdict is the same, and so is what it writes. -/
theorem decodeReadsOnlyTheFrame : Obligations.DecodeReadsOnlyTheFrame := by
  intro s s' hlen hbytes hverify hstrict hres
  refine exec_decode_of_equal_verdict ?_ hres
  obtain hsame | ⟨hlong, hlong'⟩ := hlen
  · exact decodeFrame_of_equal_length (congrArg BitVec.toNat hsame) hbytes hverify hstrict
  · have hlong := rxLength_of_longEnough hlong
    have hlong' : 12 + s.operands.rxDeclared ≤ s'.operands.rxLength := by
      change 10 + s.operands.rxDeclared + 2 ≤ s'.operands.rxLength at hlong'
      omega
    refine decodeFrame_of_equal_frame hlong hlong' (fun i h1 h2 => hbytes i h1 (lt_min ?_ h2)) hverify hstrict
    exact h2.trans_le hlong

/-- Settles O29: the receive buffer holds the frame, and a frame is decoded to what it was built from. -/
theorem decodeOfEncodedFrameRoundTrips : Obligations.DecodeOfEncodedFrameRoundTrips := by
  intro s t la lo m c hwf hla hlo ht hm
  obtain ⟨hnone, -⟩ := exec_frame ht
  have hemits : EmitsFrame s t la lo := by
    rw [← Host.Outcome.next.inj ((exec_encode_of_scale hla hlo).symm.trans ht)]
    exact emitsFrame_complete hwf la lo la lo
  obtain ⟨hframe, hsent, -⟩ := hemits
  have hsame : Memory.half m 38 = t.encCrc := by
    rw [hsent]
    exact Memory.half_congr fun i _ hi => hm i (by omega)
  have hverdict : decodeFrame (State.operands { t with rxbuf := m, rxLen := 40, ctrl := c }) =
      .sample (Memory.half m 38) (Memory.half m 38) s.operands.sysId la lo := by
    rw [operands_of_idle (by exact hnone)]
    exact decodeFrame_of_holdsFrame (holdsFrame_of_read hframe hm) rfl
  exact ⟨_, exec_decode_of_sample hverdict, rfl, rfl, rfl, rfl, hsame, hsame⟩

end Sys2Proof.Proofs


/-! ### Rounding: what `roundMagnitude` computes is the nearest value (00_scope.md R14, IEEE 754)

A magnitude `a` is measured in units of `2 ^ (-1074)`: `V = a * 2 ^ 1074`. Rounding picks one of the two neighbours
`q * 2 ^ e` and `(q + 1) * 2 ^ e` of `V`, and no finite value lies strictly between them. Everything said about the
product and the quotient follows from these two facts. -/

namespace Sys2Proof.Machine

open Sys2Proof.Claims

/-! #### The value of a pattern -/

/-- The sign of a value as a factor. -/
def signFactor (s : Bool) : ℚ := if s then -1 else 1

@[simp] theorem signFactor_false : signFactor false = 1 := rfl

@[simp] theorem signFactor_true : signFactor true = -1 := rfl

@[simp] theorem abs_signFactor (s : Bool) : |signFactor s| = 1 := by
  cases s <;> simp

theorem signFactor_mul_self (s : Bool) : signFactor s * signFactor s = 1 := by
  cases s <;> simp

theorem signFactor_xor (s t : Bool) : signFactor (s ^^ t) = signFactor s * signFactor t := by
  cases s <;> cases t <;> simp

/-- How many units make 1. -/
def oneUnits : ℚ := 2 ^ 1074

theorem oneUnits_pos : 0 < oneUnits := pow_pos two_pos _

/-- A power of two is the same natural and rational number. -/
theorem natCast_two_pow (n : ℕ) : ((2 ^ n : ℕ) : ℚ) = 2 ^ n := by
  rw [Nat.cast_pow, Nat.cast_ofNat]

/-- How many products of two units make 1. -/
def squareUnits : ℕ := 2 ^ 2148

theorem squareUnits_pos : 0 < squareUnits := Nat.pow_pos two_pos

theorem squareUnits_eq : (squareUnits : ℚ) = oneUnits * oneUnits :=
  (natCast_two_pow 2148).trans (pow_add 2 1074 1074)

theorem f64Value_eq (x : F64) : f64Value x = signFactor (f64Sign x) * (f64Units x / oneUnits) :=
  mul_div_assoc ..

theorem abs_f64Value (x : F64) : |f64Value x| = f64Units x / oneUnits := by
  rw [f64Value_eq, abs_mul, abs_signFactor, one_mul, abs_of_nonneg (div_nonneg (Nat.cast_nonneg _) oneUnits_pos.le)]

/-- A product of patterns, by its sign and its units. -/
theorem f64Value_mul (x y : F64) :
    f64Value x * f64Value y =
      signFactor (f64Sign x ^^ f64Sign y) * ((f64Units x * f64Units y : ℕ) / squareUnits) := by
  rw [f64Value_eq, f64Value_eq, signFactor_xor, squareUnits_eq, Nat.cast_mul]
  ring

/-- A quotient of patterns, by its sign and its units. -/
theorem f64Value_div (x y : F64) :
    f64Value x / f64Value y = signFactor (f64Sign x ^^ f64Sign y) * (f64Units x / f64Units y) := by
  have hsign : signFactor (f64Sign y) ≠ 0 := by
    cases f64Sign y <;> simp
  rw [f64Value_eq, f64Value_eq, signFactor_xor, mul_div_mul_comm, div_div_div_cancel_right₀ oneUnits_pos.ne']
  congr 1
  rw [div_eq_iff hsign, mul_assoc, signFactor_mul_self, mul_one]

/-- A finite pattern is neither a NaN nor an infinity. -/
theorem f64IsFinite_iff (x : F64) : f64IsFinite x = true ↔ f64IsNan x = false ∧ f64IsInf x = false := by
  unfold f64IsFinite f64IsNan f64IsInf
  by_cases he : f64Exp x = 2047 <;> by_cases hf : f64Frac x = 0 <;> simp [he, hf]

/-! #### Neighbours of a magnitude -/

/-- The magnitude `V`, in units, lies between the neighbours `q * 2 ^ e` and `(q + 1) * 2 ^ e`, and `q'` is the one that
rounding picks: the nearer, or the even one in the middle. -/
structure RoundsTo (V : ℚ) (e q q' : ℕ) : Prop where
  lower : q * 2 ^ e ≤ V
  upper : V < (q + 1) * 2 ^ e
  q_lt : q < 2 ^ 53
  normal : e = 0 ∨ 2 ^ 52 ≤ q
  pick : (q' = q + 1 ∧ ((2 * q + 1) * 2 ^ e < 2 * V ∨ ((2 * q + 1) * 2 ^ e = 2 * V ∧ q % 2 = 1))) ∨
    (q' = q ∧ (2 * V < (2 * q + 1) * 2 ^ e ∨ (2 * V = (2 * q + 1) * 2 ^ e ∧ q % 2 = 0)))

/-- What `roundMagnitude` computes, as a choice between two neighbours. -/
theorem exists_roundsTo {num den : ℕ} (hd : 0 < den) :
    ∃ e q q', RoundsTo (num / den * oneUnits) e q q' ∧
      roundMagnitude num den = min (e * 2 ^ 52 + q') 0x7FF0000000000000 := by
  obtain ⟨e, q, r, hsplit, hr, hq, hnormal, hpick⟩ := roundMagnitude_cases (num := num) hd
  have hden : (0 : ℚ) < den := Nat.cast_pos.2 hd
  have hscale : (num / den * oneUnits : ℚ) * den = (den * 2 ^ e) * q + r := by
    rw [div_mul_eq_mul_div, div_mul_cancel₀ _ hden.ne', oneUnits]
    have h := congrArg (Nat.cast (R := ℚ)) hsplit
    simpa only [Nat.cast_mul, Nat.cast_add, Nat.cast_pow, Nat.cast_ofNat] using h
  have hr0 : (0 : ℚ) ≤ r := Nat.cast_nonneg r
  have hr' : (r : ℚ) < den * 2 ^ e := by exact_mod_cast hr
  have hlt (a b : ℚ) : a < b ↔ a * den < b * den := (mul_lt_mul_iff_left₀ hden).symm
  have heq (a b : ℚ) : a = b ↔ a * den = b * den := (mul_left_inj' hden.ne').symm
  have htwice : 2 * (num / den * oneUnits : ℚ) * den = 2 * ((den * 2 ^ e) * q + r) := by rw [mul_assoc, hscale]
  have habove : (2 * (q : ℚ) + 1) * 2 ^ e < 2 * (num / den * oneUnits) ↔ den * 2 ^ e < 2 * r := by
    rw [hlt, htwice, ← Nat.cast_lt (α := ℚ)]
    push_cast
    constructor <;> intro h <;> linarith
  have hmiddle : (2 * (q : ℚ) + 1) * 2 ^ e = 2 * (num / den * oneUnits) ↔ den * 2 ^ e = 2 * r := by
    rw [heq, htwice, ← Nat.cast_inj (R := ℚ)]
    push_cast
    constructor <;> intro h <;> linarith
  have hbelow : 2 * (num / den * oneUnits) < (2 * (q : ℚ) + 1) * 2 ^ e ↔ 2 * r < den * 2 ^ e := by
    rw [hlt, htwice, ← Nat.cast_lt (α := ℚ)]
    push_cast
    constructor <;> intro h <;> linarith
  obtain ⟨hround, hup⟩ | ⟨hround, hdown⟩ := hpick
  · refine ⟨e, q, q + 1, ⟨?_, ?_, hq, hnormal, Or.inl ⟨rfl, ?_⟩⟩, hround⟩
    · rw [← not_lt, hlt, hscale]; linarith
    · rw [hlt, hscale]; linarith
    · rw [habove, hmiddle]
      exact hup.imp_right (And.imp_left Eq.symm)
  · refine ⟨e, q, q, ⟨?_, ?_, hq, hnormal, Or.inr ⟨rfl, ?_⟩⟩, hround⟩
    · rw [← not_lt, hlt, hscale]; linarith
    · rw [hlt, hscale]; linarith
    · rw [hbelow, eq_comm, hmiddle]
      exact hdown.imp_right (And.imp_left Eq.symm)

/-- No finite value lies strictly between two neighbours. -/
theorem units_le_or_ge (z : F64) {e q : ℕ} (h : e = 0 ∨ 2 ^ 52 ≤ q) :
    f64Units z ≤ q * 2 ^ e ∨ (q + 1) * 2 ^ e ≤ f64Units z := by
  obtain ⟨e', q1, hq1, -, -, -, hunits⟩ := f64Units_eq z
  rw [hunits]
  rcases Nat.lt_or_ge e' e with hlt | hge
  · have hq : 2 ^ 52 ≤ q := h.resolve_left (by omega)
    refine Or.inl ?_
    calc q1 * 2 ^ e' ≤ 2 ^ 53 * 2 ^ e' := Nat.mul_le_mul_right _ hq1.le
      _ = 2 ^ 52 * 2 ^ (e' + 1) := by rw [pow_succ 2 e', pow_succ 2 52]; ring
      _ ≤ q * 2 ^ e := Nat.mul_le_mul hq (Nat.pow_le_pow_right two_pos hlt)
  · have hgrid : q1 * 2 ^ e' = q1 * 2 ^ (e' - e) * 2 ^ e := by
      rw [mul_assoc, ← pow_add, Nat.sub_add_cancel hge]
    rw [hgrid]
    rcases Nat.lt_or_ge q (q1 * 2 ^ (e' - e)) with hlt | hle
    · exact Or.inr (Nat.mul_le_mul_right _ hlt)
    · exact Or.inl (Nat.mul_le_mul_right _ hle)

namespace RoundsTo

variable {V : ℚ} {e q q' : ℕ}

theorem le_succ (h : RoundsTo V e q q') : q ≤ q' ∧ q' ≤ q + 1 := by
  obtain ⟨rfl, -⟩ | ⟨rfl, -⟩ := h.pick <;> omega

/-- Rounding is off by at most half a unit in the last place. -/
theorem error (h : RoundsTo V e q q') : 2 * |(q' : ℚ) * 2 ^ e - V| ≤ 2 ^ e := by
  have hlo := h.lower
  have hhi := h.upper
  obtain ⟨rfl, hup⟩ | ⟨rfl, hdown⟩ := h.pick
  · have hhalf : (2 * (q : ℚ) + 1) * 2 ^ e ≤ 2 * V := hup.elim le_of_lt fun ⟨hm, _⟩ => hm.le
    rw [Nat.cast_succ, abs_of_nonneg (by linarith)]
    linarith
  · have hhalf : 2 * V ≤ (2 * (q' : ℚ) + 1) * 2 ^ e := hdown.elim le_of_lt fun ⟨hm, _⟩ => hm.le
    rw [abs_of_nonpos (by linarith)]
    linarith

/-- The neighbour picked is the nearest finite value, and of two equally near ones the even one. -/
theorem nearest (h : RoundsTo V e q q') (z : F64) :
    |(q' : ℚ) * 2 ^ e - V| ≤ |(f64Units z : ℚ) - V| ∧
      (|(f64Units z : ℚ) - V| = |(q' : ℚ) * 2 ^ e - V| → (f64Units z : ℚ) = q' * 2 ^ e ∨ q' % 2 = 0) := by
  have hlo := h.lower
  have hhi := h.upper
  have hgap : (f64Units z : ℚ) ≤ q * 2 ^ e ∨ (q + 1 : ℚ) * 2 ^ e ≤ f64Units z := by
    exact_mod_cast units_le_or_ge z h.normal
  obtain ⟨rfl, hup⟩ | ⟨rfl, hdown⟩ := h.pick
  · have hhalf : (2 * (q : ℚ) + 1) * 2 ^ e ≤ 2 * V := hup.elim le_of_lt fun ⟨hm, _⟩ => hm.le
    rw [Nat.cast_succ, abs_of_nonneg (a := (q + 1 : ℚ) * 2 ^ e - V) (by linarith)]
    rcases hgap with hz | hz
    · rw [abs_of_nonpos (by linarith)]
      refine ⟨by linarith, fun htie => Or.inr ?_⟩
      obtain hstrict | ⟨-, hodd⟩ := hup
      · linarith
      · omega
    · rw [abs_of_nonneg (by linarith)]
      exact ⟨by linarith, fun htie => Or.inl (by linarith)⟩
  · have hhalf : 2 * V ≤ (2 * (q' : ℚ) + 1) * 2 ^ e := hdown.elim le_of_lt fun ⟨hm, _⟩ => hm.le
    rw [abs_of_nonpos (a := (q' : ℚ) * 2 ^ e - V) (by linarith)]
    rcases hgap with hz | hz
    · rw [abs_of_nonpos (by linarith)]
      exact ⟨by linarith, fun htie => Or.inl (by linarith)⟩
    · rw [abs_of_nonneg (by linarith)]
      refine ⟨by linarith, fun htie => Or.inr ?_⟩
      obtain hstrict | ⟨-, heven⟩ := hdown
      · linarith
      · exact heven

/-- Zero rounds to zero. -/
theorem of_zero (h : RoundsTo V e q q') (hV : V = 0) : q' = 0 := by
  have hE : (0 : ℚ) < 2 ^ e := pow_pos two_pos e
  have hq : q = 0 := by
    by_contra hne
    have hpos : (0 : ℚ) < q := Nat.cast_pos.2 (Nat.pos_of_ne_zero hne)
    have := h.lower
    have := mul_pos hpos hE
    linarith
  subst hq
  obtain ⟨rfl, hup⟩ | ⟨rfl, -⟩ := h.pick
  · have hhalf : (2 * ((0 : ℕ) : ℚ) + 1) * 2 ^ e ≤ 2 * V := hup.elim le_of_lt fun ⟨hm, _⟩ => hm.le
    rw [Nat.cast_zero] at hhalf
    linarith
  · rfl

/-- A natural number below `2 ^ 53` is a finite value and rounds to itself. -/
theorem of_natCast {k : ℕ} (hk : k < 2 ^ 53) (h : RoundsTo (k * oneUnits) e q q') :
    e ≤ 1074 ∧ (q' : ℚ) * 2 ^ e = k * oneUnits := by
  have hE : (0 : ℚ) < 2 ^ e := pow_pos two_pos e
  have hlo := h.lower
  have hhi := h.upper
  have he : e ≤ 1074 := by
    by_contra hgt
    have hq : (2 ^ 52 : ℚ) ≤ q := by exact_mod_cast h.normal.resolve_left (by omega)
    have hk' : (k : ℚ) < 2 ^ 53 := by exact_mod_cast hk
    have hpow : 2 * oneUnits ≤ 2 ^ e := by
      rw [oneUnits, ← pow_succ']
      exact pow_le_pow_right₀ one_le_two (by omega)
    have hbig : (2 ^ 52 : ℚ) * (2 * oneUnits) ≤ q * 2 ^ e :=
      mul_le_mul hq hpow (mul_nonneg two_pos.le oneUnits_pos.le) (Nat.cast_nonneg q)
    have hsmall : (k : ℚ) * oneUnits < 2 ^ 53 * oneUnits := mul_lt_mul_of_pos_right hk' oneUnits_pos
    linarith
  refine ⟨he, ?_⟩
  have hgrid : (k : ℚ) * oneUnits = (k * 2 ^ (1074 - e) : ℕ) * 2 ^ e := by
    rw [oneUnits, Nat.cast_mul, Nat.cast_pow, Nat.cast_ofNat, mul_assoc, ← pow_add, Nat.sub_add_cancel he]
  rw [hgrid] at hlo hhi
  have hle : q ≤ k * 2 ^ (1074 - e) := by exact_mod_cast le_of_mul_le_mul_right hlo hE
  have hlt : k * 2 ^ (1074 - e) < q + 1 := by exact_mod_cast lt_of_mul_lt_mul_right hhi hE.le
  have hq : k * 2 ^ (1074 - e) = q := by omega
  rw [hgrid, hq]
  obtain ⟨-, hup⟩ | ⟨rfl, -⟩ := h.pick
  · rw [hgrid, hq] at hup
    have hhalf := hup.elim le_of_lt fun ⟨hm, _⟩ => hm.le
    linarith
  · rfl

/-- With a smaller exponent than the greatest finite value has, no rounding overflows. -/
theorem lt_overflow_of_lt (h : RoundsTo V e q q') (he : e < 2045) :
    e * 2 ^ 52 + q' < 0x7FF0000000000000 ∧ V < (2 ^ 54 - 1) * 2 ^ 2044 := by
  have hq := h.q_lt
  have hq' := h.le_succ
  have hK : (0 : ℚ) < 2 ^ 2044 := pow_pos two_pos _
  have hqle : (q : ℚ) + 1 ≤ 2 ^ 53 := by exact_mod_cast hq
  have hpow : (2 : ℚ) ^ e ≤ 2 ^ 2044 := pow_le_pow_right₀ one_le_two (by omega)
  have hbound : ((q : ℚ) + 1) * 2 ^ e ≤ 2 ^ 53 * 2 ^ 2044 :=
    mul_le_mul hqle hpow (pow_pos two_pos e).le (by positivity)
  refine ⟨by omega, h.upper.trans_le (hbound.trans ?_)⟩
  generalize (2 : ℚ) ^ 2044 = K at *
  linarith only [hK]

/-- With a greater exponent every rounding overflows. -/
theorem overflow_le_of_gt (h : RoundsTo V e q q') (he : 2045 < e) :
    0x7FF0000000000000 ≤ e * 2 ^ 52 + q' ∧ (2 ^ 54 - 1) * 2 ^ 2044 ≤ V := by
  have hq' := h.le_succ
  have hK : (0 : ℚ) < 2 ^ 2044 := pow_pos two_pos _
  have hq : 2 ^ 52 ≤ q := h.normal.resolve_left (by omega)
  have hpow : (4 : ℚ) * 2 ^ 2044 ≤ 2 ^ e := by
    rw [show (4 : ℚ) = 2 ^ 2 by norm_num, ← pow_add]
    exact pow_le_pow_right₀ one_le_two (by omega)
  have hbound : (2 ^ 52 : ℚ) * (4 * 2 ^ 2044) ≤ q * 2 ^ e :=
    mul_le_mul (by exact_mod_cast hq) hpow (mul_pos four_pos hK).le (Nat.cast_nonneg q)
  refine ⟨by omega, le_trans ?_ (hbound.trans h.lower)⟩
  generalize (2 : ℚ) ^ 2044 = K at *
  linarith only [hK]

/-- With the greatest finite exponent the rounding overflows when it carries out of the greatest significand. -/
theorem overflow_iff_of_eq (h : RoundsTo V 2045 q q') :
    0x7FF0000000000000 ≤ 2045 * 2 ^ 52 + q' ↔ (2 ^ 54 - 1) * 2 ^ 2044 ≤ V := by
  have hK : (0 : ℚ) < 2 ^ 2044 := pow_pos two_pos _
  have htop : (2 : ℚ) ^ 2045 = 2 * 2 ^ 2044 := pow_succ' 2 2044
  have hhi := h.upper
  have hq := h.q_lt
  have hpick := h.pick
  rw [htop] at hhi hpick
  generalize (2 : ℚ) ^ 2044 = K at *
  have hscaled {a b : ℕ} (hab : a ≤ b) : (a : ℚ) * K ≤ b * K := mul_le_mul_of_nonneg_right (Nat.cast_le.2 hab) hK.le
  obtain ⟨rfl, hup⟩ | ⟨rfl, hdown⟩ := hpick
  · have hhalf := hup.elim le_of_lt fun ⟨hm, _⟩ => hm.le
    constructor
    · intro hle
      have hfull := hscaled (show 2 ^ 53 ≤ q + 1 by omega)
      push_cast at hfull
      linarith only [hhalf, hfull]
    · intro hV
      by_contra hne
      have hroom := hscaled (show q + 2 ≤ 2 ^ 53 by omega)
      push_cast at hroom
      linarith only [hhi, hV, hK, hroom]
  · refine iff_of_false (by omega) (not_le.2 ?_)
    obtain hstrict | ⟨hmid, heven⟩ := hdown
    · have hroom := hscaled (show q' + 1 ≤ 2 ^ 53 by omega)
      push_cast at hroom
      linarith only [hstrict, hroom]
    · have hroom := hscaled (show q' + 2 ≤ 2 ^ 53 by omega)
      push_cast at hroom
      linarith only [hmid, hK, hroom]

/-- Rounding overflows from the halfway point above the greatest finite value on: `2 ^ 1024 - 2 ^ 970`, in units. -/
theorem overflow_iff (h : RoundsTo V e q q') :
    0x7FF0000000000000 ≤ e * 2 ^ 52 + q' ↔ (2 ^ 54 - 1) * 2 ^ 2044 ≤ V := by
  rcases Nat.lt_trichotomy e 2045 with hlt | rfl | hgt
  · obtain ⟨hbits, hV⟩ := h.lt_overflow_of_lt hlt
    exact iff_of_false hbits.not_ge hV.not_ge
  · exact h.overflow_iff_of_eq
  · obtain ⟨hbits, hV⟩ := h.overflow_le_of_gt hgt
    exact iff_of_true hbits hV

end RoundsTo

end Sys2Proof.Machine


/-! ### The product, the quotient and the conversion are correctly rounded (00_scope.md R14; notes/assumptions/12.md) -/

namespace Sys2Proof.Machine

open Sys2Proof.Claims

/-! #### Packed patterns -/

/-- A packed pattern is an infinity exactly when its magnitude is that of infinity, and never a NaN. -/
theorem f64IsInf_pack (s : Bool) {m : ℕ} (h : m ≤ 0x7FF0000000000000) :
    f64IsInf (f64Pack s m) = true ↔ 0x7FF0000000000000 ≤ m := by
  have hm : m < 2 ^ 63 := by omega
  simp only [f64IsInf, f64Exp_pack s hm, f64Frac_pack s hm, Bool.and_eq_true, beq_iff_eq]
  omega

theorem f64IsNan_pack (s : Bool) {m : ℕ} (h : m ≤ 0x7FF0000000000000) : f64IsNan (f64Pack s m) = false := by
  have hm : m < 2 ^ 63 := by omega
  rw [f64IsNan, f64Exp_pack s hm, f64Frac_pack s hm, Bool.and_eq_false_iff, beq_eq_false_iff_ne, bne_eq_false_iff_eq]
  omega

/-- A rounded magnitude with a sign: the common form of product, quotient and conversion. -/
def rounded (s : Bool) (num den : ℕ) : F64 := f64Pack s (roundMagnitude num den)

theorem mulRne_eq_rounded (x y : F64) :
    mulRne x y = rounded (f64Sign x ^^ f64Sign y) (f64Units x * f64Units y) squareUnits := rfl

theorem divRne_eq_rounded (x y : F64) :
    divRne x y = rounded (f64Sign x ^^ f64Sign y) (f64Units x) (f64Units y) := rfl

theorem f64OfInt_eq_rounded (k : ℤ) : f64OfInt k = rounded (decide (k < 0)) k.natAbs 1 := rfl

theorem f64IsNan_rounded (s : Bool) (num den : ℕ) : f64IsNan (rounded s num den) = false :=
  f64IsNan_pack s (roundMagnitude_le num den)

theorem f64Sign_rounded (s : Bool) (num den : ℕ) : f64Sign (rounded s num den) = s :=
  f64Sign_pack s (roundMagnitude_lt num den)

/-- A rounded magnitude is an infinity exactly from `2 ^ 1024 - 2 ^ 970` on, halfway above the greatest finite value. -/
theorem f64IsInf_rounded (s : Bool) {num den : ℕ} (hd : 0 < den) :
    f64IsInf (rounded s num den) = true ↔ (2 ^ 1024 - 2 ^ 970 : ℚ) ≤ num / den := by
  obtain ⟨e, q, q', hto, hround⟩ := exists_roundsTo (num := num) hd
  have hthreshold : ((2 ^ 54 - 1) * 2 ^ 2044 : ℚ) = (2 ^ 1024 - 2 ^ 970) * oneUnits := by
    rw [oneUnits, show (2 : ℚ) ^ 1024 = 2 ^ 54 * 2 ^ 970 from pow_add 2 54 970,
      show (2 : ℚ) ^ 2044 = 2 ^ 970 * 2 ^ 1074 from pow_add 2 970 1074]
    generalize (2 : ℚ) ^ 970 = K
    generalize (2 : ℚ) ^ 1074 = C
    ring
  rw [rounded, f64IsInf_pack s (roundMagnitude_le num den), hround, le_min_iff, and_iff_left le_rfl, hto.overflow_iff,
    hthreshold, mul_le_mul_iff_left₀ oneUnits_pos]

/-- The neighbour that a finite rounded magnitude is. -/
theorem exists_roundsTo_of_finite (s : Bool) {num den : ℕ} (hd : 0 < den)
    (hfin : f64IsFinite (rounded s num den) = true) :
    ∃ e q q', RoundsTo (num / den * oneUnits) e q q' ∧ f64Units (rounded s num den) = q' * 2 ^ e ∧
      f64Frac (rounded s num den) % 2 = q' % 2 ∧ (e = 0 ∨ 2 ^ 52 ≤ q') := by
  obtain ⟨e, q, q', hto, hround⟩ := exists_roundsTo (num := num) hd
  have hnotinf := ((f64IsFinite_iff _).1 hfin).2
  rw [rounded, ← Bool.not_eq_true, f64IsInf_pack s (roundMagnitude_le num den), hround, le_min_iff,
    and_iff_left le_rfl] at hnotinf
  have hq := hto.q_lt
  obtain ⟨hle, hle'⟩ := hto.le_succ
  have hnormal : e = 0 ∨ 2 ^ 52 ≤ q' := hto.normal.imp_right fun h => h.trans hle
  have hbits : roundMagnitude num den = e * 2 ^ 52 + q' := by rw [hround]; omega
  refine ⟨e, q, q', hto, ?_, ?_, hnormal⟩
  · rw [rounded, hbits, f64Units_pack s (by omega) hnormal (by omega)]
  · rw [rounded, hbits, f64Frac_pack s (by omega)]
    omega

/-! #### Nearest values -/

/-- How far a value with sign `t` is from one with sign `s`: with unequal signs, no nearer than with equal ones. -/
theorem abs_sub_signFactor (s t : Bool) {x y : ℚ} (hx : 0 ≤ x) (hy : 0 ≤ y) :
    |signFactor t * x - signFactor s * y| = if t = s then |x - y| else x + y := by
  cases s <;> cases t <;> simp only [signFactor_false, signFactor_true, one_mul, neg_mul, if_true,
    reduceCtorEq, if_false, sub_neg_eq_add]
  · rw [abs_of_nonpos (by linarith)]; ring
  · exact abs_of_nonneg (by linarith)
  · rw [abs_sub_comm, neg_add_eq_sub, abs_sub_comm, abs_sub_comm]

/-- A finite rounded magnitude with its sign is the value nearest to the magnitude with that sign, ties to even. -/
theorem nearestEven_rounded (s : Bool) {num den : ℕ} (hd : 0 < den) (hfin : f64IsFinite (rounded s num den) = true) :
    NearestEven (rounded s num den) (signFactor s * (num / den)) := by
  obtain ⟨e, q, q', hto, hunits, hfrac, -⟩ := exists_roundsTo_of_finite s hd hfin
  refine ⟨hfin, fun z _ => ?_⟩
  obtain ⟨hnear, htie⟩ := hto.nearest z
  have hc := oneUnits_pos
  have hV : (0 : ℚ) ≤ num / den * oneUnits :=
    mul_nonneg (div_nonneg (Nat.cast_nonneg _) (Nat.cast_nonneg _)) hc.le
  have hz : (0 : ℚ) ≤ f64Units z := Nat.cast_nonneg _
  have hr : (0 : ℚ) ≤ q' * 2 ^ e := mul_nonneg (Nat.cast_nonneg _) (pow_pos two_pos e).le
  have hvalue : signFactor s * (num / den : ℚ) = signFactor s * (num / den * oneUnits / oneUnits) := by
    rw [mul_div_cancel_right₀ _ hc.ne']
  have hdist (t : Bool) (x : ℚ) : |signFactor t * (x / oneUnits) - signFactor s * (num / den)| =
      |signFactor t * x - signFactor s * (num / den * oneUnits)| / oneUnits := by
    rw [hvalue, ← mul_div_assoc, ← mul_div_assoc, ← sub_div, abs_div, abs_of_pos hc]
  rw [f64Value_eq, f64Value_eq z, f64Sign_rounded, hunits, Nat.cast_mul, Nat.cast_pow, Nat.cast_ofNat, hdist, hdist,
    div_le_div_iff_of_pos_right hc, div_left_inj' hc.ne', hfrac, abs_sub_signFactor s s hr hV, if_pos rfl,
    abs_sub_signFactor s _ hz hV]
  generalize (num / den * oneUnits : ℚ) = V at *
  split
  next hsign =>
    rw [hsign]
    exact ⟨hnear, fun h => (htie h).imp_left fun hu => by rw [hu]⟩
  next =>
    have hfar : |(f64Units z : ℚ) - V| ≤ f64Units z + V := abs_le.2 ⟨by linarith, by linarith⟩
    refine ⟨hnear.trans hfar, fun h => ?_⟩
    have heq : |(f64Units z : ℚ) - V| = f64Units z + V := le_antisymm hfar (h ▸ hnear)
    rcases htie (heq.trans h) with hu | heven
    · rcases abs_eq (by linarith) |>.1 heq with hzero | hzero
      · exact Or.inr (by rw [hto.of_zero (by linarith)])
      · refine Or.inl ?_
        have hz0 : (f64Units z : ℚ) = 0 := by linarith
        rw [← hu, hz0]
        simp
    · exact Or.inr heven

/-- The magnitudes of this block are far from overflow. -/
theorem le_overflow : (2 : ℚ) ^ 53 ≤ 2 ^ 1024 - 2 ^ 970 := by
  have hone : (1 : ℚ) ≤ 2 ^ 970 := one_le_pow₀ one_le_two
  rw [show (2 : ℚ) ^ 1024 = 2 ^ 54 * 2 ^ 970 from pow_add 2 54 970]
  generalize (2 : ℚ) ^ 970 = K at *
  linarith

/-- An integer below `2 ^ 53` in magnitude converts exactly (00_scope.md R14). -/
theorem f64OfInt_exact {k : ℤ} (hk : |k| < 2 ^ 53) :
    f64IsFinite (f64OfInt k) = true ∧ f64Value (f64OfInt k) = k := by
  have hnat : k.natAbs < 2 ^ 53 := by
    rw [Int.abs_eq_natAbs] at hk
    exact_mod_cast hk
  have hcast : ((k.natAbs : ℕ) / (1 : ℕ) : ℚ) = k.natAbs := by rw [Nat.cast_one, div_one]
  have hsmall : ¬ f64IsInf (f64OfInt k) = true := by
    have hlt : (k.natAbs : ℚ) < 2 ^ 53 := by exact_mod_cast hnat
    rw [f64OfInt_eq_rounded, f64IsInf_rounded _ one_pos, hcast, not_le]
    exact hlt.trans_le le_overflow
  have hfin : f64IsFinite (f64OfInt k) = true :=
    (f64IsFinite_iff _).2 ⟨f64IsNan_rounded _ _ _, Bool.not_eq_true _ ▸ hsmall⟩
  refine ⟨hfin, ?_⟩
  obtain ⟨e, q, q', hto, hunits, -⟩ := exists_roundsTo_of_finite _ one_pos hfin
  rw [hcast] at hto
  obtain ⟨-, hexact⟩ := hto.of_natCast hnat
  rw [f64Value_eq, f64OfInt_eq_rounded, f64Sign_rounded, hunits, Nat.cast_mul, Nat.cast_pow, Nat.cast_ofNat, hexact,
    mul_div_cancel_right₀ _ oneUnits_pos.ne', Nat.cast_natAbs]
  rcases lt_or_ge k 0 with hneg | hpos
  · rw [abs_of_neg hneg, decide_eq_true hneg, signFactor_true]
    push_cast
    ring
  · rw [abs_of_nonneg hpos, decide_eq_false (not_lt.2 hpos), signFactor_false, one_mul]

theorem f64Units_coordScale : f64Units coordScale = 10 ^ 7 * 2 ^ 1074 := by decide +kernel

theorem f64Value_coordScale : f64Value coordScale = 10 ^ 7 := by
  have hsign : f64Sign coordScale = false := by decide
  rw [f64Value_eq, hsign, f64Units_coordScale, signFactor_false, one_mul, Nat.cast_mul, natCast_two_pow, ← oneUnits,
    mul_div_cancel_right₀ _ oneUnits_pos.ne']
  norm_num

/-! #### The product -/

theorem f64IsInf_mulRne (x y : F64) :
    f64IsInf (mulRne x y) = true ↔ (2 ^ 1024 - 2 ^ 970 : ℚ) ≤ |f64Value x * f64Value y| := by
  rw [mulRne_eq_rounded, f64IsInf_rounded _ squareUnits_pos, f64Value_mul, abs_mul, abs_signFactor, one_mul,
    abs_of_nonneg (div_nonneg (Nat.cast_nonneg _) (Nat.cast_nonneg _))]

theorem nearestEven_mulRne {x y : F64} (h : f64IsFinite (mulRne x y) = true) :
    NearestEven (mulRne x y) (f64Value x * f64Value y) := by
  rw [f64Value_mul]
  exact nearestEven_rounded _ squareUnits_pos h

/-! #### The quotient -/

theorem f64IsInf_divRne (x : F64) {y : F64} (hy : 0 < f64Units y) :
    f64IsInf (divRne x y) = true ↔ (2 ^ 1024 - 2 ^ 970 : ℚ) ≤ |f64Value x / f64Value y| := by
  rw [divRne_eq_rounded, f64IsInf_rounded _ hy, f64Value_div, abs_mul, abs_signFactor, one_mul,
    abs_of_nonneg (div_nonneg (Nat.cast_nonneg _) (Nat.cast_nonneg _))]

theorem nearestEven_divRne {x y : F64} (hy : 0 < f64Units y) (h : f64IsFinite (divRne x y) = true) :
    NearestEven (divRne x y) (f64Value x / f64Value y) := by
  rw [f64Value_div]
  exact nearestEven_rounded _ hy h

end Sys2Proof.Machine


/-! ### Coordinates: scaling, its range and its error, and degrees (41_encoder.md R130 to R132, 42_decoder.md R168,
R173)

`scale` truncates a correctly rounded product. The truncated value and the product have one sign and magnitudes less
than 1 apart, and a nearest value is within every natural number below `2 ^ 53` that the exact one is within. -/

namespace Sys2Proof.Machine

open Sys2Proof.Claims

/-! #### Bounds on nearest values -/

/-- A nearest value does not leave the range of integers that the exact value is in: the ends are finite values. -/
theorem abs_le_of_nearestEven {r : F64} {v : ℚ} {n : ℕ} (h : NearestEven r v) (hn : n < 2 ^ 53) (hv : |v| ≤ n) :
    |f64Value r| ≤ n := by
  have habs (s : ℤ) (hs : s = n ∨ s = -n) : |s| < 2 ^ 53 := by
    rcases hs with rfl | rfl <;> simp <;> exact_mod_cast hn
  obtain ⟨hfin, hval⟩ := f64OfInt_exact (habs n (Or.inl rfl))
  obtain ⟨hfin', hval'⟩ := f64OfInt_exact (habs (-n) (Or.inr rfl))
  have hhi := (h.2 _ hfin).1
  have hlo := (h.2 _ hfin').1
  obtain ⟨hv1, hv2⟩ := abs_le.1 hv
  rw [hval, Int.cast_natCast, abs_of_nonneg (a := (n : ℚ) - v) (by linarith)] at hhi
  rw [hval', Int.cast_neg, Int.cast_natCast, abs_of_nonpos (a := -(n : ℚ) - v) (by linarith)] at hlo
  exact abs_le.2 ⟨by linarith [neg_abs_le (f64Value r - v)], by linarith [le_abs_self (f64Value r - v)]⟩

theorem mulRne_finite {x y : F64} (h : |f64Value x * f64Value y| < 2 ^ 53) : f64IsFinite (mulRne x y) = true := by
  refine (f64IsFinite_iff _).2 ⟨f64IsNan_rounded _ _ _, ?_⟩
  rw [← Bool.not_eq_true, f64IsInf_mulRne, not_le]
  exact h.trans_le le_overflow

theorem divRne_finite {x y : F64} (hy : 0 < f64Units y) (h : |f64Value x / f64Value y| < 2 ^ 53) :
    f64IsFinite (divRne x y) = true := by
  refine (f64IsFinite_iff _).2 ⟨f64IsNan_rounded _ _ _, ?_⟩
  rw [← Bool.not_eq_true, f64IsInf_divRne x hy, not_le]
  exact h.trans_le le_overflow

/-- A product below `2 ^ 32` in magnitude is off by at most `2 ^ (-22)`: half a unit in the last place of its 53
bits. -/
theorem mulRne_error {x y : F64} (hfin : f64IsFinite (mulRne x y) = true) (hlt : |f64Value (mulRne x y)| < 2 ^ 32) :
    |f64Value (mulRne x y) - f64Value x * f64Value y| ≤ 1 / 2 ^ 22 := by
  obtain ⟨e, q, q', hto, hunits, -, hnormal⟩ := exists_roundsTo_of_finite _ squareUnits_pos hfin
  have hc := oneUnits_pos
  have herror := hto.error
  rw [← mulRne_eq_rounded] at hunits
  have hsplit : oneUnits = 2 ^ 21 * 2 ^ 1053 := pow_add 2 21 1053
  have hK : (0 : ℚ) < 2 ^ 1053 := pow_pos two_pos _
  have he : (2 : ℚ) ^ e ≤ 2 ^ 1053 := by
    refine pow_le_pow_right₀ one_le_two ?_
    by_contra hgt
    have hq : (2 ^ 52 : ℚ) ≤ q' := by exact_mod_cast hnormal.resolve_left (by omega)
    have hpow : (2 : ℚ) * 2 ^ 1053 ≤ 2 ^ e := by
      rw [← pow_succ']
      exact pow_le_pow_right₀ one_le_two (by omega)
    rw [abs_f64Value, hunits, div_lt_iff₀ hc, Nat.cast_mul, Nat.cast_pow, Nat.cast_ofNat, hsplit] at hlt
    have hbig : (2 ^ 52 : ℚ) * (2 * 2 ^ 1053) ≤ q' * 2 ^ e :=
      mul_le_mul hq hpow (mul_pos two_pos hK).le (Nat.cast_nonneg q')
    generalize (2 : ℚ) ^ 1053 = K at *
    linarith only [hlt, hbig, hK]
  have hsign : f64Sign (mulRne x y) = (f64Sign x ^^ f64Sign y) := f64Sign_rounded _ _ _
  have hdiff : f64Value (mulRne x y) - f64Value x * f64Value y =
      signFactor (f64Sign x ^^ f64Sign y) *
        ((q' * 2 ^ e - (f64Units x * f64Units y : ℕ) / squareUnits * oneUnits) / oneUnits) := by
    rw [f64Value_mul, f64Value_eq, hsign, hunits, sub_div, mul_div_cancel_right₀ _ hc.ne', mul_sub, Nat.cast_mul q',
      Nat.cast_pow, Nat.cast_ofNat]
  rw [hdiff, abs_mul, abs_signFactor, one_mul, abs_div, abs_of_pos hc, div_le_iff₀ hc, hsplit]
  rw [hsplit] at herror
  generalize (2 : ℚ) ^ 1053 = K at *
  linarith only [herror, he]

/-! #### Truncation -/

theorem f64Value_eq_abs (x : F64) : f64Value x = signFactor (f64Sign x) * |f64Value x| := by
  rw [abs_f64Value, f64Value_eq]

/-- Truncation keeps the sign and takes the integer part of the magnitude (00_scope.md R14). -/
theorem f64Trunc_eq (x : F64) :
    ∃ m : ℕ, f64Trunc x = (if f64Sign x then -(m : ℤ) else m) ∧ (m : ℚ) ≤ |f64Value x| ∧ |f64Value x| < m + 1 := by
  obtain ⟨c, hc, hcast⟩ : ∃ c : ℕ, c = 2 ^ 1074 ∧ (c : ℚ) = oneUnits :=
    ⟨2 ^ 1074, rfl, natCast_two_pow 1074⟩
  have hpos : 0 < c := hc ▸ Nat.pow_pos two_pos
  refine ⟨f64Units x / c, by rw [f64Trunc, hc], ?_, ?_⟩
  · rw [abs_f64Value, le_div_iff₀ oneUnits_pos, ← hcast]
    exact_mod_cast Nat.div_mul_le_self (f64Units x) c
  · rw [abs_f64Value, div_lt_iff₀ oneUnits_pos, ← hcast]
    exact_mod_cast (Nat.div_lt_iff_lt_mul hpos).1 (Nat.lt_succ_self (f64Units x / c))

/-- A truncated value and the value itself have one sign, and magnitudes less than 1 apart (41_encoder.md R132). -/
theorem f64Trunc_toward_zero (x : F64) :
    |(f64Trunc x : ℚ)| ≤ |f64Value x| ∧ |f64Value x| < |(f64Trunc x : ℚ)| + 1 ∧ 0 ≤ (f64Trunc x : ℚ) * f64Value x ∧
      |f64Value x - f64Trunc x| < 1 := by
  obtain ⟨m, htrunc, hle, hlt⟩ := f64Trunc_eq x
  have hcast : (f64Trunc x : ℚ) = signFactor (f64Sign x) * m := by
    rw [htrunc]
    cases f64Sign x <;> simp
  have hm : (0 : ℚ) ≤ m := Nat.cast_nonneg m
  have habs : |(f64Trunc x : ℚ)| = m := by rw [hcast, abs_mul, abs_signFactor, one_mul, abs_of_nonneg hm]
  have hprod : (f64Trunc x : ℚ) * f64Value x = m * |f64Value x| := by
    rw [hcast, f64Value_eq_abs x, abs_mul, abs_signFactor, one_mul, abs_abs, mul_mul_mul_comm, signFactor_mul_self,
      one_mul]
  have hdiff : |f64Value x - f64Trunc x| = |f64Value x| - m := by
    rw [hcast, f64Value_eq_abs x, abs_sub_signFactor _ _ (abs_nonneg _) hm, if_pos rfl, abs_mul, abs_signFactor,
      one_mul, abs_abs, abs_of_nonneg (by linarith)]
  rw [habs, hprod, hdiff]
  exact ⟨hle, hlt, mul_nonneg hm (abs_nonneg _), by linarith⟩

/-- When a truncated value is an `i32` (41_encoder.md R131). -/
theorem f64Trunc_range (x : F64) :
    (-2147483648 ≤ f64Trunc x ∧ f64Trunc x ≤ 2147483647) ↔ (-2147483649 < f64Value x ∧ f64Value x < 2147483648) := by
  obtain ⟨m, htrunc, hle, hlt⟩ := f64Trunc_eq x
  have hiff (n : ℕ) : m ≤ n ↔ |f64Value x| < n + 1 := by
    constructor
    · intro h
      have : (m : ℚ) ≤ n := Nat.cast_le.2 h
      linarith
    · intro h
      have : (m : ℚ) < n + 1 := by linarith
      exact Nat.lt_succ_iff.1 (by exact_mod_cast this)
  have hneg := hiff 2147483648
  have hpos := hiff 2147483647
  have habs := abs_nonneg (f64Value x)
  rw [htrunc, f64Value_eq_abs x]
  norm_num at hneg hpos
  cases f64Sign x
  · rw [signFactor_false, one_mul, if_neg Bool.false_ne_true]
    constructor
    · rintro ⟨-, h⟩
      exact ⟨by linarith, hpos.1 (by omega)⟩
    · rintro ⟨-, h⟩
      have := hpos.2 h
      omega
  · rw [signFactor_true, neg_one_mul, if_pos rfl]
    constructor
    · rintro ⟨h, -⟩
      have := hneg.1 (by omega)
      exact ⟨by linarith, by linarith⟩
    · rintro ⟨h, -⟩
      have := hneg.2 (by linarith)
      omega

/-! #### `scale` -/

/-- The conversion to `i32` keeps the integer, and fails exactly out of range (41_encoder.md R130). -/
theorem toI32_eq_some_iff (k : ℤ) (w : Word) : toI32 k = some w ↔ k = w.toInt := by
  constructor
  · intro h
    obtain ⟨hlo, hhi, rfl⟩ := toI32_cases h
    exact (BitVec.toInt_ofInt_eq_self (by decide) (by omega) (by omega)).symm
  · rintro rfl
    have hlo := w.le_toInt
    have hhi := w.toInt_lt
    rw [toI32, if_neg, BitVec.ofInt_toInt]
    simp only [Bool.or_eq_true, decide_eq_true_eq]
    omega

theorem exists_toI32_iff (k : ℤ) : (∃ w, toI32 k = some w) ↔ -2147483648 ≤ k ∧ k ≤ 2147483647 := by
  constructor
  · rintro ⟨w, hw⟩
    obtain ⟨hlo, hhi, -⟩ := toI32_cases hw
    exact ⟨hlo, hhi⟩
  · rintro ⟨hlo, hhi⟩
    exact ⟨_, (toI32_eq_some_iff k _).2 (BitVec.toInt_ofInt_eq_self (w := 32) (by decide) (by omega) (by omega)).symm⟩

/-- `scale` converts the truncated product, and needs the coordinate and the product to be finite. -/
theorem scale_eq_some_iff (x : F64) (k : Word) :
    scale x = some k ↔ f64IsFinite x = true ∧ f64IsFinite (mulRne x coordScale) = true ∧
      toI32 (f64Trunc (mulRne x coordScale)) = some k := by
  have hnan : f64IsNan (mulRne x coordScale) = false := f64IsNan_rounded _ _ _
  rw [f64IsFinite_iff, f64IsFinite_iff]
  constructor
  · intro h
    obtain ⟨h1, h2, h3, h4⟩ := scale_cases h
    exact ⟨⟨h1, h2⟩, ⟨hnan, h3⟩, h4⟩
  · rintro ⟨⟨h1, h2⟩, ⟨-, h3⟩, h4⟩
    simp only [scale, h1, h2, h3, h4, Bool.or_self, Bool.false_eq_true, if_false]

/-- What a coordinate that scales gives: the product truncated. -/
theorem f64Trunc_of_scale {x : F64} {k : Word} (h : scale x = some k) :
    f64IsFinite (mulRne x coordScale) = true ∧ (f64Trunc (mulRne x coordScale) : ℚ) = k.toInt := by
  obtain ⟨-, hfin, hk⟩ := (scale_eq_some_iff x k).1 h
  exact ⟨hfin, by rw [(toI32_eq_some_iff _ k).1 hk]⟩

theorem exists_scale_iff (x : F64) :
    (∃ k, scale x = some k) ↔ f64IsFinite x = true ∧ f64IsFinite (mulRne x coordScale) = true ∧
      -2147483649 < f64Value (mulRne x coordScale) ∧ f64Value (mulRne x coordScale) < 2147483648 := by
  simp only [scale_eq_some_iff, exists_and_left, exists_toI32_iff, f64Trunc_range]

/-- The exact product of a coordinate with `COORD_SCALE`. -/
theorem abs_mul_coordScale (x : F64) : |f64Value x * f64Value coordScale| = |f64Value x| * 10 ^ 7 := by
  rw [f64Value_coordScale, abs_mul, abs_of_pos (by norm_num : (0 : ℚ) < 10 ^ 7)]

/-- A coordinate of at most 180 degrees scales (41_encoder.md R131). -/
theorem exists_scale_of_abs_le {x : F64} (hfin : f64IsFinite x = true) (hx : |f64Value x| ≤ 180) :
    ∃ k, scale x = some k ∧ |k.toInt| ≤ 1800000000 := by
  have hv : |f64Value x * f64Value coordScale| ≤ (1800000000 : ℕ) := by
    rw [abs_mul_coordScale]
    push_cast
    linarith
  have hpfin : f64IsFinite (mulRne x coordScale) = true := mulRne_finite (hv.trans_lt (by norm_num))
  have hp := abs_le_of_nearestEven (nearestEven_mulRne hpfin) (by norm_num) hv
  obtain ⟨hlo, hhi⟩ := abs_le.1 hp
  push_cast at hlo hhi
  obtain ⟨k, hk⟩ := (exists_scale_iff x).2 ⟨hfin, hpfin, by linarith, by linarith⟩
  refine ⟨k, hk, ?_⟩
  have htrunc := (f64Trunc_toward_zero (mulRne x coordScale)).1.trans hp
  rw [(f64Trunc_of_scale hk).2] at htrunc
  exact_mod_cast htrunc

/-- A product below 1 in magnitude truncates to 0 (41_encoder.md R131). -/
theorem scale_eq_zero {x : F64} (hfin : f64IsFinite x = true) (hx : |f64Value x| < 1 / 10 ^ 7)
    (hp : |f64Value (mulRne x coordScale)| < 1) : scale x = some 0 := by
  have hv : |f64Value x * f64Value coordScale| < 2 ^ 53 := by
    rw [abs_mul_coordScale]
    norm_num at hx ⊢
    linarith
  have htrunc : f64Trunc (mulRne x coordScale) = 0 := by
    have h := (f64Trunc_toward_zero (mulRne x coordScale)).1.trans_lt hp
    exact Int.abs_lt_one_iff.1 (by exact_mod_cast h)
  exact (scale_eq_some_iff x 0).2 ⟨hfin, mulRne_finite hv, by rw [htrunc]; decide⟩

/-! #### Degrees -/

/-- The degrees of a wire value are correctly rounded: both the wire value and 1e7 convert exactly (42_decoder.md
R168). -/
theorem nearestEven_degreesOf (e7 : Word) : NearestEven (degreesOf e7) ((e7.toInt : ℚ) / 10 ^ 7) := by
  have hlo := e7.le_toInt
  have hhi := e7.toInt_lt
  have habs : |e7.toInt| ≤ 2 ^ 31 := abs_le.2 ⟨by simpa using hlo, by simpa using hhi.le⟩
  have hwire : f64Value (f64OfInt e7.toInt) = e7.toInt := (f64OfInt_exact (habs.trans_lt (by norm_num))).2
  have hscale : 0 < f64Units coordScale := by
    rw [f64Units_coordScale]
    exact Nat.mul_pos (by norm_num) (Nat.pow_pos two_pos)
  rw [degreesOf, ← hwire, ← f64Value_coordScale]
  refine nearestEven_divRne hscale (divRne_finite hscale ?_)
  have hq : |(e7.toInt : ℚ)| ≤ 2 ^ 31 := by exact_mod_cast habs
  rw [hwire, f64Value_coordScale, abs_div, abs_of_pos (by norm_num : (0 : ℚ) < 10 ^ 7), div_lt_iff₀ (by norm_num)]
  linarith

end Sys2Proof.Machine

namespace Sys2Proof.Proofs

open Sys2Proof.Machine Sys2Proof.Claims

/-- Settles O14: an integer of at most 53 bits is a multiple of the unit it is rounded to. -/
theorem integersConvertExactly : Obligations.IntegersConvertExactly :=
  ⟨fun _ hk => f64OfInt_exact hk, by decide, f64Value_coordScale⟩

/-- Settles O15: the product is a rounded magnitude with the product sign. -/
theorem productIsCorrectlyRounded : Obligations.ProductIsCorrectlyRounded :=
  fun x y _ _ => ⟨f64IsNan_rounded _ _ _, f64Sign_rounded _ _ _, nearestEven_mulRne, f64IsInf_mulRne x y⟩

/-- Settles O16. -/
theorem degreesAreNearestBinary64 : Obligations.DegreesAreNearestBinary64 :=
  ⟨fun e7 => ⟨rfl, nearestEven_degreesOf e7⟩, by decide +kernel, by decide +kernel, by decide +kernel⟩

/-- Settles O17: what scales is the truncated product. -/
theorem scaleTruncatesTowardZero : Obligations.ScaleTruncatesTowardZero := by
  refine ⟨fun x k h => ?_, by decide +kernel, by decide +kernel⟩
  obtain ⟨hle, hlt, hsign, -⟩ := f64Trunc_toward_zero (mulRne x coordScale)
  rw [(f64Trunc_of_scale h).2] at hle hlt hsign
  exact ⟨hle, hlt, hsign⟩

/-- Settles O18. -/
theorem scaleRange : Obligations.ScaleRange :=
  ⟨exists_scale_iff, fun _ => exists_scale_of_abs_le, fun _ => scale_eq_zero, by decide +kernel, by decide +kernel,
    by decide +kernel, by decide +kernel, by decide +kernel⟩

/-- Settles O19: truncation is off by less than 1 and the rounding of the product by at most `2 ^ (-22)`. -/
theorem scaledCoordinateErrorBound : Obligations.ScaledCoordinateErrorBound := by
  intro x k h
  obtain ⟨hfin, htrunc⟩ := f64Trunc_of_scale h
  obtain ⟨-, -, hlo, hhi⟩ := (exists_scale_iff x).1 ⟨k, h⟩
  have hround := mulRne_error hfin (abs_lt.2 ⟨by linarith, by linarith⟩)
  have hcut := (f64Trunc_toward_zero (mulRne x coordScale)).2.2.2
  rw [htrunc] at hcut
  rw [f64Value_coordScale, abs_sub_comm] at hround
  have hscaled : |f64Value x * 10 ^ 7 - k.toInt| < 1 + 1 / 2 ^ 22 :=
    calc |f64Value x * 10 ^ 7 - k.toInt|
        ≤ |f64Value x * 10 ^ 7 - f64Value (mulRne x coordScale)| + |f64Value (mulRne x coordScale) - k.toInt| :=
          abs_sub_le _ _ _
      _ < 1 / 2 ^ 22 + 1 := add_lt_add_of_le_of_lt hround hcut
      _ = 1 + 1 / 2 ^ 22 := add_comm _ _
  have hdeg : f64Value x - (k.toInt : ℚ) / 10 ^ 7 = (f64Value x * 10 ^ 7 - k.toInt) / 10 ^ 7 := by ring
  rw [hdeg, abs_div, abs_of_pos (by norm_num : (0 : ℚ) < 10 ^ 7)]
  exact div_lt_div_of_pos_right hscaled (by norm_num)

/-- Settles O22: both coordinates scale. -/
theorem geographicCoordinatesEncode : Obligations.GeographicCoordinatesEncode := by
  intro s hlat hlat90 hlon hlon180
  obtain ⟨la, hla, -⟩ := exists_scale_of_abs_le hlat (hlat90.trans (by norm_num))
  obtain ⟨lo, hlo, -⟩ := exists_scale_of_abs_le hlon hlon180
  exact ⟨_, exec_encode_of_scale hla hlo, rfl⟩

end Sys2Proof.Proofs
